-- ==== Sys2Proof/Word.lean ====
section
/-! DEFINITION. The two word types of the block (00_scope.md R7, R9). -/

namespace Sys2Proof

/-- A byte: the data width of A, X, Y, S, a memory cell and an operand byte (R7). -/
abbrev Byte := BitVec 8

/-- A 16-bit address or pointer word (R7, R60). -/
abbrev Addr := BitVec 16

end Sys2Proof
end

