-- ==== Sys2Proof/Machine/Bits.lean ====
section
/-! DEFINITION. The bit-field, extension and byte-order helpers of 00_scope.md R9. -/

namespace Sys2Proof

/-- `word(hi, lo) = hi * 256 + lo` (R9). -/
def word (hi lo : Byte) : Addr := hi.setWidth 16 <<< 8 ||| lo.setWidth 16

/-- `w[7:0]` (R9). -/
def lowByte (w : Addr) : Byte := w.extractLsb' 0 8

/-- `w[15:8]` (R9). -/
def highByte (w : Addr) : Byte := w.extractLsb' 8 8

/-- `zext_16(b)` (R9). -/
def zext16 (b : Byte) : Addr := b.setWidth 16

/-- `sext_16(b)` (R9). -/
def sext16 (b : Byte) : Addr := b.signExtend 16

/-- `v[i]` for a byte (R9). -/
def bitAt (v : Byte) (i : Nat) : Bool := v.getLsbD i

/-- The byte whose only bit that may be set is bit `i`, holding `b`: the `b << i` of R37 and R184. -/
def bitTo (b : Bool) (i : Nat) : Byte := (BitVec.ofBool b).setWidth 8 <<< i

end Sys2Proof
end

