-- ==== Sys2Proof/Syntax/Operand.lean ====
section
/-! DEFINITION. The operation kinds and addressing modes of the decode table (30_encoding.md R95), and
the operand forms that an instruction carries (R91, R94). -/

namespace Sys2Proof

/-- The operation kinds: "the 56 mnemonics of rule R97 and `INVALID`" (R95). -/
inductive Kind where
  | adc | sbc | cmp | cpx | cpy
  | and | ora | eor | bit
  | asl | lsr | rol | ror
  | inc | dec | inx | iny | dex | dey
  | lda | ldx | ldy | sta | stx | sty
  | tax | tay | txa | tya | tsx | txs
  | bcc | bcs | beq | bne | bmi | bpl | bvc | bvs
  | pha | php | pla | plp | jsr | rts | jmp | brk | rti
  | sec | sei | sed | clc | cli | cld | clv | nop
  | invalid
  deriving DecidableEq, Repr

/-- The 13 addressing modes of R91 and the sentinel `NONE` of an invalid opcode (R95). -/
inductive Mode where
  | imp | acc | imm | zp | zpx | zpy | abs | absx | absy | rel | ind | izx | izy | none
  deriving DecidableEq, Repr

/-- The modes that name one memory cell, with the instruction's own operand byte or word (R94). -/
inductive MemMode where
  /-- Zero Page. -/
  | zp (b : Byte)
  /-- Zero Page,X. -/
  | zpx (b : Byte)
  /-- Zero Page,Y. -/
  | zpy (b : Byte)
  /-- Absolute. -/
  | abs (w : Addr)
  /-- Absolute,X. -/
  | absx (w : Addr)
  /-- Absolute,Y. -/
  | absy (w : Addr)
  /-- Indexed Indirect, `($nn,X)`. -/
  | izx (b : Byte)
  /-- Indirect Indexed, `($nn),Y`. -/
  | izy (b : Byte)
  deriving DecidableEq, Repr

/-- A byte operand that is read: Immediate, or a memory cell. The byte of an Immediate operand stands
at pc0 + 1 (R94); the decoder has read it there (log entry 5). -/
inductive Src where
  | imm (b : Byte)
  | mem (m : MemMode)
  deriving DecidableEq, Repr

/-- The operand of a shift or rotate: the accumulator, or a memory cell (43_shift_rotate.md R180). -/
inductive RmwOpnd where
  | acc
  | mem (m : MemMode)
  deriving DecidableEq, Repr

/-- The operand of JMP: a target, or the address of a pointer to it (48_stack_control.md R236). -/
inductive JumpOpnd where
  | abs (w : Addr)
  | ind (w : Addr)
  deriving DecidableEq, Repr

/-- The addressing mode of a memory operand. -/
def MemMode.mode : MemMode → Mode
  | .zp _ => .zp
  | .zpx _ => .zpx
  | .zpy _ => .zpy
  | .abs _ => .abs
  | .absx _ => .absx
  | .absy _ => .absy
  | .izx _ => .izx
  | .izy _ => .izy

/-- The addressing mode of a read operand. -/
def Src.mode : Src → Mode
  | .imm _ => .imm
  | .mem m => m.mode

/-- The addressing mode of a shift's operand. -/
def RmwOpnd.mode : RmwOpnd → Mode
  | .acc => .acc
  | .mem m => m.mode

/-- The addressing mode of JMP's operand. -/
def JumpOpnd.mode : JumpOpnd → Mode
  | .abs _ => .abs
  | .ind _ => .ind

end Sys2Proof
end

