-- ==== Sys2Proof/Syntax.lean ====
section
/-! DEFINITION. The instructions: one constructor per mnemonic of opcode_table.json, which is one per
operation kind of the decode table (30_encoding.md R95). The constructor's argument holds the row's
addressing mode and operand bytes, so that each of the table's 151 instruction rows is one constructor
with one operand form, and each of its 105 INVALID rows is `invalid` with that opcode (log entry 4). -/

namespace Sys2Proof

/-- An instruction, with its operand bytes as the decoder reads them. -/
inductive Instr where
  /-- ADC: R160. -/
  | adc (o : Src)
  /-- SBC: R161. -/
  | sbc (o : Src)
  /-- CMP: R163. -/
  | cmp (o : Src)
  /-- CPX: R164. -/
  | cpx (o : Src)
  /-- CPY: R165. -/
  | cpy (o : Src)
  /-- AND: R171. -/
  | and (o : Src)
  /-- ORA: R172. -/
  | ora (o : Src)
  /-- EOR: R173. -/
  | eor (o : Src)
  /-- BIT: R174. -/
  | bit (m : MemMode)
  /-- ASL: R181. -/
  | asl (o : RmwOpnd)
  /-- LSR: R182. -/
  | lsr (o : RmwOpnd)
  /-- ROL: R183. -/
  | rol (o : RmwOpnd)
  /-- ROR: R184. -/
  | ror (o : RmwOpnd)
  /-- INC: R190. -/
  | inc (m : MemMode)
  /-- DEC: R191. -/
  | dec (m : MemMode)
  /-- INX: R192. -/
  | inx
  /-- INY: R193. -/
  | iny
  /-- DEX: R194. -/
  | dex
  /-- DEY: R195. -/
  | dey
  /-- LDA: R200. -/
  | lda (o : Src)
  /-- LDX: R201. -/
  | ldx (o : Src)
  /-- LDY: R202. -/
  | ldy (o : Src)
  /-- STA: R203. -/
  | sta (m : MemMode)
  /-- STX: R204. -/
  | stx (m : MemMode)
  /-- STY: R205. -/
  | sty (m : MemMode)
  /-- TAX: R210. -/
  | tax
  /-- TAY: R211. -/
  | tay
  /-- TXA: R212. -/
  | txa
  /-- TYA: R213. -/
  | tya
  /-- TSX: R214. -/
  | tsx
  /-- TXS: R215. -/
  | txs
  /-- BCC: R222. -/
  | bcc (d : Byte)
  /-- BCS: R223. -/
  | bcs (d : Byte)
  /-- BEQ: R224. -/
  | beq (d : Byte)
  /-- BNE: R225. -/
  | bne (d : Byte)
  /-- BMI: R226. -/
  | bmi (d : Byte)
  /-- BPL: R227. -/
  | bpl (d : Byte)
  /-- BVC: R228. -/
  | bvc (d : Byte)
  /-- BVS: R229. -/
  | bvs (d : Byte)
  /-- PHA: R230. -/
  | pha
  /-- PHP: R231. -/
  | php
  /-- PLA: R232. -/
  | pla
  /-- PLP: R233. -/
  | plp
  /-- JSR: R234. -/
  | jsr (w : Addr)
  /-- RTS: R235. -/
  | rts
  /-- JMP: R236. -/
  | jmp (t : JumpOpnd)
  /-- BRK: R238; `pad` is the padding byte, read by nothing (R93). -/
  | brk (pad : Byte)
  /-- RTI: R239. -/
  | rti
  /-- SEC: R250. -/
  | sec
  /-- SEI: R251. -/
  | sei
  /-- SED: R252. -/
  | sed
  /-- CLC: R253. -/
  | clc
  /-- CLI: R254. -/
  | cli
  /-- CLD: R255. -/
  | cld
  /-- CLV: R256. -/
  | clv
  /-- NOP: R257. -/
  | nop
  /-- INVALID: R261; `op` is one of the 105 invalid opcode values (R99). -/
  | invalid (op : Byte)
  deriving DecidableEq, Repr

/-- The operation kind of an instruction. -/
def Instr.kind : Instr → Kind
  | .adc _ => .adc
  | .sbc _ => .sbc
  | .cmp _ => .cmp
  | .cpx _ => .cpx
  | .cpy _ => .cpy
  | .and _ => .and
  | .ora _ => .ora
  | .eor _ => .eor
  | .bit _ => .bit
  | .asl _ => .asl
  | .lsr _ => .lsr
  | .rol _ => .rol
  | .ror _ => .ror
  | .inc _ => .inc
  | .dec _ => .dec
  | .inx => .inx
  | .iny => .iny
  | .dex => .dex
  | .dey => .dey
  | .lda _ => .lda
  | .ldx _ => .ldx
  | .ldy _ => .ldy
  | .sta _ => .sta
  | .stx _ => .stx
  | .sty _ => .sty
  | .tax => .tax
  | .tay => .tay
  | .txa => .txa
  | .tya => .tya
  | .tsx => .tsx
  | .txs => .txs
  | .bcc _ => .bcc
  | .bcs _ => .bcs
  | .beq _ => .beq
  | .bne _ => .bne
  | .bmi _ => .bmi
  | .bpl _ => .bpl
  | .bvc _ => .bvc
  | .bvs _ => .bvs
  | .pha => .pha
  | .php => .php
  | .pla => .pla
  | .plp => .plp
  | .jsr _ => .jsr
  | .rts => .rts
  | .jmp _ => .jmp
  | .brk _ => .brk
  | .rti => .rti
  | .sec => .sec
  | .sei => .sei
  | .sed => .sed
  | .clc => .clc
  | .cli => .cli
  | .cld => .cld
  | .clv => .clv
  | .nop => .nop
  | .invalid _ => .invalid

/-- The addressing mode of an instruction. -/
def Instr.mode : Instr → Mode
  | .adc o => o.mode
  | .sbc o => o.mode
  | .cmp o => o.mode
  | .cpx o => o.mode
  | .cpy o => o.mode
  | .and o => o.mode
  | .ora o => o.mode
  | .eor o => o.mode
  | .bit m => m.mode
  | .asl o => o.mode
  | .lsr o => o.mode
  | .rol o => o.mode
  | .ror o => o.mode
  | .inc m => m.mode
  | .dec m => m.mode
  | .inx => .imp
  | .iny => .imp
  | .dex => .imp
  | .dey => .imp
  | .lda o => o.mode
  | .ldx o => o.mode
  | .ldy o => o.mode
  | .sta m => m.mode
  | .stx m => m.mode
  | .sty m => m.mode
  | .tax => .imp
  | .tay => .imp
  | .txa => .imp
  | .tya => .imp
  | .tsx => .imp
  | .txs => .imp
  | .bcc _ => .rel
  | .bcs _ => .rel
  | .beq _ => .rel
  | .bne _ => .rel
  | .bmi _ => .rel
  | .bpl _ => .rel
  | .bvc _ => .rel
  | .bvs _ => .rel
  | .pha => .imp
  | .php => .imp
  | .pla => .imp
  | .plp => .imp
  | .jsr _ => .abs
  | .rts => .imp
  | .jmp t => t.mode
  | .brk _ => .imp
  | .rti => .imp
  | .sec => .imp
  | .sei => .imp
  | .sed => .imp
  | .clc => .imp
  | .cli => .imp
  | .cld => .imp
  | .clv => .imp
  | .nop => .imp
  | .invalid _ => .none

end Sys2Proof
end

