-- ==== Sys2Proof/Decode.lean ====
section
/-! DEFINITION. The instruction decoder (30_encoding.md): the opcode map of R96, the size of each mode
(R92, R93), operand assembly (R94); and after them an encoder written from R97's list of opcodes. -/

namespace Sys2Proof

/-! ## The opcode map (R96): one list per high hex digit, one entry per low hex digit -/

/-- One cell of the map: kind and mode. -/
abbrev MapCell := Kind × Mode

/-- A `-` cell of the map: `INVALID`/`NONE`. -/
def noInstr : MapCell := (.invalid, .none)

/-- Row 0_ of R96's map. -/
def mapRow0 : List MapCell :=
  [(.brk, .imp), (.ora, .izx), noInstr, noInstr, noInstr, (.ora, .zp), (.asl, .zp), noInstr,
   (.php, .imp), (.ora, .imm), (.asl, .acc), noInstr, noInstr, (.ora, .abs), (.asl, .abs), noInstr]

/-- Row 1_ of R96's map. -/
def mapRow1 : List MapCell :=
  [(.bpl, .rel), (.ora, .izy), noInstr, noInstr, noInstr, (.ora, .zpx), (.asl, .zpx), noInstr,
   (.clc, .imp), (.ora, .absy), noInstr, noInstr, noInstr, (.ora, .absx), (.asl, .absx), noInstr]

/-- Row 2_ of R96's map. -/
def mapRow2 : List MapCell :=
  [(.jsr, .abs), (.and, .izx), noInstr, noInstr, (.bit, .zp), (.and, .zp), (.rol, .zp), noInstr,
   (.plp, .imp), (.and, .imm), (.rol, .acc), noInstr, (.bit, .abs), (.and, .abs), (.rol, .abs), noInstr]

/-- Row 3_ of R96's map. -/
def mapRow3 : List MapCell :=
  [(.bmi, .rel), (.and, .izy), noInstr, noInstr, noInstr, (.and, .zpx), (.rol, .zpx), noInstr,
   (.sec, .imp), (.and, .absy), noInstr, noInstr, noInstr, (.and, .absx), (.rol, .absx), noInstr]

/-- Row 4_ of R96's map. -/
def mapRow4 : List MapCell :=
  [(.rti, .imp), (.eor, .izx), noInstr, noInstr, noInstr, (.eor, .zp), (.lsr, .zp), noInstr,
   (.pha, .imp), (.eor, .imm), (.lsr, .acc), noInstr, (.jmp, .abs), (.eor, .abs), (.lsr, .abs), noInstr]

/-- Row 5_ of R96's map. -/
def mapRow5 : List MapCell :=
  [(.bvc, .rel), (.eor, .izy), noInstr, noInstr, noInstr, (.eor, .zpx), (.lsr, .zpx), noInstr,
   (.cli, .imp), (.eor, .absy), noInstr, noInstr, noInstr, (.eor, .absx), (.lsr, .absx), noInstr]

/-- Row 6_ of R96's map. -/
def mapRow6 : List MapCell :=
  [(.rts, .imp), (.adc, .izx), noInstr, noInstr, noInstr, (.adc, .zp), (.ror, .zp), noInstr,
   (.pla, .imp), (.adc, .imm), (.ror, .acc), noInstr, (.jmp, .ind), (.adc, .abs), (.ror, .abs), noInstr]

/-- Row 7_ of R96's map. -/
def mapRow7 : List MapCell :=
  [(.bvs, .rel), (.adc, .izy), noInstr, noInstr, noInstr, (.adc, .zpx), (.ror, .zpx), noInstr,
   (.sei, .imp), (.adc, .absy), noInstr, noInstr, noInstr, (.adc, .absx), (.ror, .absx), noInstr]

/-- Row 8_ of R96's map. -/
def mapRow8 : List MapCell :=
  [noInstr, (.sta, .izx), noInstr, noInstr, (.sty, .zp), (.sta, .zp), (.stx, .zp), noInstr,
   (.dey, .imp), noInstr, (.txa, .imp), noInstr, (.sty, .abs), (.sta, .abs), (.stx, .abs), noInstr]

/-- Row 9_ of R96's map. -/
def mapRow9 : List MapCell :=
  [(.bcc, .rel), (.sta, .izy), noInstr, noInstr, (.sty, .zpx), (.sta, .zpx), (.stx, .zpy), noInstr,
   (.tya, .imp), (.sta, .absy), (.txs, .imp), noInstr, noInstr, (.sta, .absx), noInstr, noInstr]

/-- Row A_ of R96's map. -/
def mapRowA : List MapCell :=
  [(.ldy, .imm), (.lda, .izx), (.ldx, .imm), noInstr, (.ldy, .zp), (.lda, .zp), (.ldx, .zp), noInstr,
   (.tay, .imp), (.lda, .imm), (.tax, .imp), noInstr, (.ldy, .abs), (.lda, .abs), (.ldx, .abs), noInstr]

/-- Row B_ of R96's map. -/
def mapRowB : List MapCell :=
  [(.bcs, .rel), (.lda, .izy), noInstr, noInstr, (.ldy, .zpx), (.lda, .zpx), (.ldx, .zpy), noInstr,
   (.clv, .imp), (.lda, .absy), (.tsx, .imp), noInstr, (.ldy, .absx), (.lda, .absx), (.ldx, .absy), noInstr]

/-- Row C_ of R96's map. -/
def mapRowC : List MapCell :=
  [(.cpy, .imm), (.cmp, .izx), noInstr, noInstr, (.cpy, .zp), (.cmp, .zp), (.dec, .zp), noInstr,
   (.iny, .imp), (.cmp, .imm), (.dex, .imp), noInstr, (.cpy, .abs), (.cmp, .abs), (.dec, .abs), noInstr]

/-- Row D_ of R96's map. -/
def mapRowD : List MapCell :=
  [(.bne, .rel), (.cmp, .izy), noInstr, noInstr, noInstr, (.cmp, .zpx), (.dec, .zpx), noInstr,
   (.cld, .imp), (.cmp, .absy), noInstr, noInstr, noInstr, (.cmp, .absx), (.dec, .absx), noInstr]

/-- Row E_ of R96's map. -/
def mapRowE : List MapCell :=
  [(.cpx, .imm), (.sbc, .izx), noInstr, noInstr, (.cpx, .zp), (.sbc, .zp), (.inc, .zp), noInstr,
   (.inx, .imp), (.sbc, .imm), (.nop, .imp), noInstr, (.cpx, .abs), (.sbc, .abs), (.inc, .abs), noInstr]

/-- Row F_ of R96's map. -/
def mapRowF : List MapCell :=
  [(.beq, .rel), (.sbc, .izy), noInstr, noInstr, noInstr, (.sbc, .zpx), (.inc, .zpx), noInstr,
   (.sed, .imp), (.sbc, .absy), noInstr, noInstr, noInstr, (.sbc, .absx), (.inc, .absx), noInstr]

/-- The map's sixteen rows. -/
def opcodeMap : List (List MapCell) :=
  [mapRow0, mapRow1, mapRow2, mapRow3, mapRow4, mapRow5, mapRow6, mapRow7,
   mapRow8, mapRow9, mapRowA, mapRowB, mapRowC, mapRowD, mapRowE, mapRowF]

/-- The cell of an opcode: row by its high digit, column by its low digit. -/
def mapCell (op : Byte) : MapCell :=
  (opcodeMap.getD (op.toNat / 16) []).getD (op.toNat % 16) noInstr

/-! ## Descriptors (R95) -/

/-- Size by mode (R92); an invalid opcode's descriptor has size 1 (R99). -/
def Mode.size : Mode → Nat
  | .imp | .acc | .none => 1
  | .imm | .zp | .zpx | .zpy | .rel | .izx | .izy => 2
  | .abs | .absx | .absy | .ind => 3

/-- The size of an instruction from its kind and mode: BRK is implied mode with size 2 (R93). -/
def encodedSize (k : Kind) (m : Mode) : Nat := if k = .brk then 2 else m.size

/-- The Instruction Descriptor: "(operation kind, addressing mode, byte size)" (R95). -/
structure Descriptor where
  kind : Kind
  mode : Mode
  size : Nat
  deriving DecidableEq, Repr

/-- `decode(op)` of R95, total over all 256 opcode values. -/
def descriptor (op : Byte) : Descriptor :=
  { kind := (mapCell op).1, mode := (mapCell op).2, size := encodedSize (mapCell op).1 (mapCell op).2 }

/-- The size of an instruction. -/
def Instr.size (i : Instr) : Nat := encodedSize i.kind i.mode

/-! ## Operand assembly (R91, R94): `b1` is byte 1, `b2` byte 2 of the instruction -/

/-- The memory operand of a mode. -/
def MemMode.ofMode (m : Mode) (b1 b2 : Byte) : Option MemMode :=
  match m with
  | .zp => some (.zp b1)
  | .zpx => some (.zpx b1)
  | .zpy => some (.zpy b1)
  | .abs => some (.abs (word b2 b1))
  | .absx => some (.absx (word b2 b1))
  | .absy => some (.absy (word b2 b1))
  | .izx => some (.izx b1)
  | .izy => some (.izy b1)
  | .imp | .acc | .imm | .rel | .ind | .none => none

/-- The read operand of a mode. -/
def Src.ofMode (m : Mode) (b1 b2 : Byte) : Option Src :=
  if m = .imm then some (.imm b1) else (MemMode.ofMode m b1 b2).map .mem

/-- The shift operand of a mode. -/
def RmwOpnd.ofMode (m : Mode) (b1 b2 : Byte) : Option RmwOpnd :=
  if m = .acc then some .acc else (MemMode.ofMode m b1 b2).map .mem

/-- The jump operand of a mode. -/
def JumpOpnd.ofMode (m : Mode) (b1 b2 : Byte) : Option JumpOpnd :=
  if m = .ind then some (.ind (word b2 b1))
  else if m = .abs then some (.abs (word b2 b1))
  else none

/-- The instruction of opcode `op` from the map's kind and mode and the operand bytes. A mode that the
kind does not have gives `invalid`; no cell of the map is of that sort. -/
def assemble (op : Byte) (k : Kind) (m : Mode) (b1 b2 : Byte) : Instr :=
  let invalid := Instr.invalid op
  match k with
  | .adc => ((Src.ofMode m b1 b2).map Instr.adc).getD invalid
  | .sbc => ((Src.ofMode m b1 b2).map Instr.sbc).getD invalid
  | .cmp => ((Src.ofMode m b1 b2).map Instr.cmp).getD invalid
  | .cpx => ((Src.ofMode m b1 b2).map Instr.cpx).getD invalid
  | .cpy => ((Src.ofMode m b1 b2).map Instr.cpy).getD invalid
  | .and => ((Src.ofMode m b1 b2).map Instr.and).getD invalid
  | .ora => ((Src.ofMode m b1 b2).map Instr.ora).getD invalid
  | .eor => ((Src.ofMode m b1 b2).map Instr.eor).getD invalid
  | .bit => ((MemMode.ofMode m b1 b2).map Instr.bit).getD invalid
  | .asl => ((RmwOpnd.ofMode m b1 b2).map Instr.asl).getD invalid
  | .lsr => ((RmwOpnd.ofMode m b1 b2).map Instr.lsr).getD invalid
  | .rol => ((RmwOpnd.ofMode m b1 b2).map Instr.rol).getD invalid
  | .ror => ((RmwOpnd.ofMode m b1 b2).map Instr.ror).getD invalid
  | .inc => ((MemMode.ofMode m b1 b2).map Instr.inc).getD invalid
  | .dec => ((MemMode.ofMode m b1 b2).map Instr.dec).getD invalid
  | .inx => .inx
  | .iny => .iny
  | .dex => .dex
  | .dey => .dey
  | .lda => ((Src.ofMode m b1 b2).map Instr.lda).getD invalid
  | .ldx => ((Src.ofMode m b1 b2).map Instr.ldx).getD invalid
  | .ldy => ((Src.ofMode m b1 b2).map Instr.ldy).getD invalid
  | .sta => ((MemMode.ofMode m b1 b2).map Instr.sta).getD invalid
  | .stx => ((MemMode.ofMode m b1 b2).map Instr.stx).getD invalid
  | .sty => ((MemMode.ofMode m b1 b2).map Instr.sty).getD invalid
  | .tax => .tax
  | .tay => .tay
  | .txa => .txa
  | .tya => .tya
  | .tsx => .tsx
  | .txs => .txs
  | .bcc => .bcc b1
  | .bcs => .bcs b1
  | .beq => .beq b1
  | .bne => .bne b1
  | .bmi => .bmi b1
  | .bpl => .bpl b1
  | .bvc => .bvc b1
  | .bvs => .bvs b1
  | .pha => .pha
  | .php => .php
  | .pla => .pla
  | .plp => .plp
  | .jsr => .jsr (word b2 b1)
  | .rts => .rts
  | .jmp => ((JumpOpnd.ofMode m b1 b2).map Instr.jmp).getD invalid
  | .brk => .brk b1
  | .rti => .rti
  | .sec => .sec
  | .sei => .sei
  | .sed => .sed
  | .clc => .clc
  | .cli => .cli
  | .cld => .cld
  | .clv => .clv
  | .nop => .nop
  | .invalid => invalid

/-- The instruction that three bytes at the program counter begin with. Total: an opcode "with no
defined historical meaning" gives `invalid`, "rather than failing" (R95). -/
def decodeBytes (op b1 b2 : Byte) : Instr := assemble op (mapCell op).1 (mapCell op).2 b1 b2

/-- Why a byte string holds no whole instruction. -/
inductive DecodeError where
  /-- There is no byte at all. -/
  | noOpcode
  /-- The opcode `op` needs `want` operand bytes and only `have_` follow it. -/
  | truncated (op : Byte) (want have_ : Nat)
  deriving DecidableEq, Repr

/-- Decodes the first instruction of a byte string: the instruction and the bytes after it. -/
def decode : List Byte → Except DecodeError (Instr × List Byte)
  | [] => .error .noOpcode
  | op :: rest =>
    let n := (descriptor op).size - 1
    if rest.length < n then .error (.truncated op n rest.length)
    else .ok (decodeBytes op (rest.getD 0 0) (rest.getD 1 0), rest.drop n)

/-- The decoder on an instruction numbered as opcode_table.json numbers it: `insn = byte0 | byte1<<8 |
byte2<<16` (R91), every bit at or above `nbits` zero. -/
def decodeTableWord (nbits w : Nat) : Option Instr :=
  let insn := w % 2 ^ nbits
  match decode [BitVec.ofNat 8 insn, BitVec.ofNat 8 (insn / 0x100), BitVec.ofNat 8 (insn / 0x10000)] with
  | .ok (i, _) => some i
  | .error _ => none

/-! ## The encoder, from R97's list of opcodes by mnemonic -/

/-- The opcodes of a kind and the mode of each, as R97 lists them. -/
def opcodesOf : Kind → List (Mode × Byte)
  | .adc =>
    [(.izx, 0x61), (.zp, 0x65), (.imm, 0x69), (.abs, 0x6D),
     (.izy, 0x71), (.zpx, 0x75), (.absy, 0x79), (.absx, 0x7D)]
  | .sbc =>
    [(.izx, 0xE1), (.zp, 0xE5), (.imm, 0xE9), (.abs, 0xED),
     (.izy, 0xF1), (.zpx, 0xF5), (.absy, 0xF9), (.absx, 0xFD)]
  | .cmp =>
    [(.izx, 0xC1), (.zp, 0xC5), (.imm, 0xC9), (.abs, 0xCD),
     (.izy, 0xD1), (.zpx, 0xD5), (.absy, 0xD9), (.absx, 0xDD)]
  | .cpx => [(.imm, 0xE0), (.zp, 0xE4), (.abs, 0xEC)]
  | .cpy => [(.imm, 0xC0), (.zp, 0xC4), (.abs, 0xCC)]
  | .and =>
    [(.izx, 0x21), (.zp, 0x25), (.imm, 0x29), (.abs, 0x2D),
     (.izy, 0x31), (.zpx, 0x35), (.absy, 0x39), (.absx, 0x3D)]
  | .ora =>
    [(.izx, 0x01), (.zp, 0x05), (.imm, 0x09), (.abs, 0x0D),
     (.izy, 0x11), (.zpx, 0x15), (.absy, 0x19), (.absx, 0x1D)]
  | .eor =>
    [(.izx, 0x41), (.zp, 0x45), (.imm, 0x49), (.abs, 0x4D),
     (.izy, 0x51), (.zpx, 0x55), (.absy, 0x59), (.absx, 0x5D)]
  | .bit => [(.zp, 0x24), (.abs, 0x2C)]
  | .asl => [(.zp, 0x06), (.acc, 0x0A), (.abs, 0x0E), (.zpx, 0x16), (.absx, 0x1E)]
  | .lsr => [(.zp, 0x46), (.acc, 0x4A), (.abs, 0x4E), (.zpx, 0x56), (.absx, 0x5E)]
  | .rol => [(.zp, 0x26), (.acc, 0x2A), (.abs, 0x2E), (.zpx, 0x36), (.absx, 0x3E)]
  | .ror => [(.zp, 0x66), (.acc, 0x6A), (.abs, 0x6E), (.zpx, 0x76), (.absx, 0x7E)]
  | .inc => [(.zp, 0xE6), (.abs, 0xEE), (.zpx, 0xF6), (.absx, 0xFE)]
  | .dec => [(.zp, 0xC6), (.abs, 0xCE), (.zpx, 0xD6), (.absx, 0xDE)]
  | .inx => [(.imp, 0xE8)]
  | .iny => [(.imp, 0xC8)]
  | .dex => [(.imp, 0xCA)]
  | .dey => [(.imp, 0x88)]
  | .lda =>
    [(.izx, 0xA1), (.zp, 0xA5), (.imm, 0xA9), (.abs, 0xAD),
     (.izy, 0xB1), (.zpx, 0xB5), (.absy, 0xB9), (.absx, 0xBD)]
  | .ldx => [(.imm, 0xA2), (.zp, 0xA6), (.abs, 0xAE), (.zpy, 0xB6), (.absy, 0xBE)]
  | .ldy => [(.imm, 0xA0), (.zp, 0xA4), (.abs, 0xAC), (.zpx, 0xB4), (.absx, 0xBC)]
  | .sta =>
    [(.izx, 0x81), (.zp, 0x85), (.abs, 0x8D),
     (.izy, 0x91), (.zpx, 0x95), (.absy, 0x99), (.absx, 0x9D)]
  | .stx => [(.zp, 0x86), (.abs, 0x8E), (.zpy, 0x96)]
  | .sty => [(.zp, 0x84), (.abs, 0x8C), (.zpx, 0x94)]
  | .tax => [(.imp, 0xAA)]
  | .tay => [(.imp, 0xA8)]
  | .txa => [(.imp, 0x8A)]
  | .tya => [(.imp, 0x98)]
  | .tsx => [(.imp, 0xBA)]
  | .txs => [(.imp, 0x9A)]
  | .bcc => [(.rel, 0x90)]
  | .bcs => [(.rel, 0xB0)]
  | .beq => [(.rel, 0xF0)]
  | .bne => [(.rel, 0xD0)]
  | .bmi => [(.rel, 0x30)]
  | .bpl => [(.rel, 0x10)]
  | .bvc => [(.rel, 0x50)]
  | .bvs => [(.rel, 0x70)]
  | .pha => [(.imp, 0x48)]
  | .php => [(.imp, 0x08)]
  | .pla => [(.imp, 0x68)]
  | .plp => [(.imp, 0x28)]
  | .jsr => [(.abs, 0x20)]
  | .rts => [(.imp, 0x60)]
  | .jmp => [(.abs, 0x4C), (.ind, 0x6C)]
  | .brk => [(.imp, 0x00)]
  | .rti => [(.imp, 0x40)]
  | .sec => [(.imp, 0x38)]
  | .sei => [(.imp, 0x78)]
  | .sed => [(.imp, 0xF8)]
  | .clc => [(.imp, 0x18)]
  | .cli => [(.imp, 0x58)]
  | .cld => [(.imp, 0xD8)]
  | .clv => [(.imp, 0xB8)]
  | .nop => [(.imp, 0xEA)]
  | .invalid => []

/-- The opcode of a well-formed instruction; an `invalid` one's is the value it holds. -/
def Instr.opcode (i : Instr) : Option Byte :=
  match i with
  | .invalid op => if invalidOpcodes.contains op then some op else none
  | _ => (opcodesOf i.kind).lookup i.mode

/-- An operand word's two bytes, low byte first (R91, 20_memory.md R69). -/
def wordBytes (w : Addr) : List Byte := [lowByte w, highByte w]

/-- The operand bytes of a memory operand. -/
def MemMode.bytes : MemMode → List Byte
  | .zp b | .zpx b | .zpy b | .izx b | .izy b => [b]
  | .abs w | .absx w | .absy w => wordBytes w

/-- The operand bytes of a read operand. -/
def Src.bytes : Src → List Byte
  | .imm b => [b]
  | .mem m => m.bytes

/-- The operand bytes of a shift operand. -/
def RmwOpnd.bytes : RmwOpnd → List Byte
  | .acc => []
  | .mem m => m.bytes

/-- The operand bytes of JMP. -/
def JumpOpnd.bytes : JumpOpnd → List Byte
  | .abs w | .ind w => wordBytes w

/-- The bytes after the opcode. -/
def Instr.operandBytes : Instr → List Byte
  | .adc o | .sbc o | .cmp o | .cpx o | .cpy o | .and o | .ora o | .eor o => o.bytes
  | .lda o | .ldx o | .ldy o => o.bytes
  | .bit m | .inc m | .dec m | .sta m | .stx m | .sty m => m.bytes
  | .asl o | .lsr o | .rol o | .ror o => o.bytes
  | .bcc d | .bcs d | .beq d | .bne d | .bmi d | .bpl d | .bvc d | .bvs d => [d]
  | .jsr w => wordBytes w
  | .jmp t => t.bytes
  | .brk pad => [pad]
  | .inx | .iny | .dex | .dey | .tax | .tay | .txa | .tya | .tsx | .txs
  | .pha | .php | .pla | .plp | .rts | .rti | .sec | .sei | .sed | .clc
  | .cli | .cld | .clv | .nop
  | .invalid _ => []

/-- The bytes of a well-formed instruction; none for an instruction that the table does not have. -/
def encode (i : Instr) : Option (List Byte) := i.opcode.map (fun op => op :: i.operandBytes)

end Sys2Proof
end

