-- ==== Sys2Proof/Config.lean ====
section
/-! DEFINITION. What is fixed for one machine: the configuration parameters of 00_scope.md R8, and
what a memory cell reads as before anything wrote it. -/

namespace Sys2Proof

/-- `BRK_PUSH_OFFSET`, "16-bit constant in {1, 2}" (R8, D16). -/
inductive BrkPushOffset where
  /-- 1: BRK pushes the address of its own last byte. -/
  | one
  /-- 2: BRK pushes the address of the opcode byte plus 2. -/
  | two
  deriving DecidableEq, Repr

/-- The offset as the 16-bit constant of R8. -/
def BrkPushOffset.toAddr : BrkPushOffset → Addr
  | .one => 1
  | .two => 2

/-- The three parameters of R8 that "a model takes as an argument". -/
structure Config where
  /-- `BRK_PUSH_OFFSET` (R237). -/
  brkPushOffset : BrkPushOffset
  /-- `JMP_IND_PAGE_WRAP` (R128). -/
  jmpIndPageWrap : Bool
  /-- `ZP_POINTER_WRAP` (R127). -/
  zpPointerWrap : Bool
  deriving DecidableEq, Repr

/-- The default of each parameter (R8). -/
def Config.default : Config :=
  { brkPushOffset := .one, jmpIndPageWrap := false, zpPointerWrap := true }

/-- What a cell reads as that nothing has written. The spec: a draw `M0` (R68).
DESIGN CHOICE, unsafe (log entry 2). -/
def unwrittenByte : Byte := 0x00

end Sys2Proof
end

