-- ==== Sys2Proof/Machine/Memory.lean ====
section
/-! DEFINITION. The memory bus (20_memory.md): 65536 byte addresses over 2048 + 57344 physical cells,
held as a canonical list of (physical cell, byte) pairs. -/

namespace Sys2Proof

/-- Memory contents: keys strictly rising, no entry equal to what an unlisted cell reads as. -/
abbrev Memory := List Host.Cell

/-- `phys(addr)` (R61): addresses below 0x2000 select one of 2048 cells by their low 11 bits. -/
def phys (a : Addr) : Addr := if a < 0x2000 then a &&& 0x07FF else a

/-- The physical cells that exist: 0x0000 to 0x07FF and 0x2000 to 0xFFFF (10_state.md R54, D32). -/
def isCell (k : Nat) : Bool := k < 0x800 || (0x2000 ≤ k && k < 0x10000)

namespace Memory

/-- The byte of cell `n`. The list's keys rise, so a key above `n` means that `n` is not listed. -/
def get : Memory → Nat → Byte
  | [], _ => unwrittenByte
  | (k, v) :: m, n => if k < n then get m n else if k = n then v else unwrittenByte

/-- The memory with byte `b` in cell `n`. Writing what an unlisted cell reads as removes the entry.
(In a canonical list `dropWhile` drops nothing: every key after `n` is above `n`.) -/
def set : Memory → Nat → Byte → Memory
  | [], n, b => if b = unwrittenByte then [] else [(n, b)]
  | (k, v) :: m, n, b =>
    if k < n then (k, v) :: set m n b
    else
      let rest := if k = n then m.dropWhile (fun c => c.1 ≤ n) else (k, v) :: m
      if b = unwrittenByte then rest else (n, b) :: rest

/-- The first listed cell, if there is one, lies above `n`. -/
def startsAbove (n : Nat) : Memory → Bool
  | [] => true
  | (k, _) :: _ => n < k

/-- The canonical form: cells that exist, keys strictly rising, no entry that an unlisted cell equals. -/
def wf : Memory → Bool
  | [] => true
  | (k, v) :: m => isCell k && v != unwrittenByte && startsAbove k m && wf m

/-- `MemRead(addr, 1)` (R62). -/
def read8 (m : Memory) (a : Addr) : Byte := m.get (phys a).toNat

/-- `MemWrite(addr, 1, v)` (R63). -/
def write8 (m : Memory) (a : Addr) (v : Byte) : Memory := m.set (phys a).toNat v

/-- `MemRead(addr, 2)` (R64): little-endian, each byte mapped on its own, `addr + 1` modulo 65536. -/
def read16 (m : Memory) (a : Addr) : Addr := word (m.read8 (a + 1)) (m.read8 a)

/-- The load port's writes (10_state.md R51): byte i of the buffer at `u16(addr + i)`. -/
def load : Memory → Addr → List Byte → Memory
  | m, _, [] => m
  | m, a, b :: bs => load (m.write8 a b) (a + 1) bs

end Memory

end Sys2Proof
end

