-- ==== Sys2Proof/Machine/State.lean ====
section
/-! DEFINITION. The state of the block (10_state.md R54), the fault and refusal reasons, and the state
right after reset. -/

namespace Sys2Proof.Machine

/-- The six stored flags (10_state.md R36). Break and bit 5 are not storage. -/
structure Flags where
  /-- Carry. -/
  c : Bool
  /-- Zero. -/
  z : Bool
  /-- Interrupt-disable. -/
  i : Bool
  /-- Decimal. -/
  d : Bool
  /-- Overflow. -/
  v : Bool
  /-- Negative. -/
  n : Bool
  deriving DecidableEq, Repr

/-- The fault reasons: "the fault-reason type has exactly one constructor" (60_exceptions.md R260). -/
inductive Fault where
  /-- The byte `op` at `pc` decodes as `INVALID` (R261). Latched by the meaning of `Instr.invalid` and
  reported by `step`, in that step and in every later one (R262). Safe: the machine stops. -/
  | invalidOpcode (op : Byte) (pc : Addr)
  deriving DecidableEq, Repr

/-- The numeric cause code of a fault (R260, D30). -/
def Fault.code : Fault → Nat
  | .invalidOpcode _ _ => 1

/-- The refusal reasons. No meaning of this model refuses. -/
inductive Refusal where
  /-- An instruction that has no meaning yet, named by its mnemonic: raised by no arm of `exec` any
  more. Safe: the machine stops. -/
  | notModelled (mnemonic : String)
  deriving DecidableEq, Repr

/-- The state record of 10_state.md R54, and the machine's configuration beside it. -/
structure State where
  /-- PC, the program counter (R33). -/
  pc : Addr
  /-- A, the accumulator (R31). -/
  a : Byte
  /-- X (R31). -/
  x : Byte
  /-- Y (R31). -/
  y : Byte
  /-- S, the stack pointer (R34). -/
  sp : Byte
  /-- The stored flags of the status register P (R36). -/
  p : Flags
  /-- Memory (R41, R54). -/
  mem : Memory
  /-- The fault latch (R45). -/
  fault : Option Fault
  /-- The configuration parameters of 00_scope.md R8: no state of the spec's; nothing writes them
  (log entry 3). -/
  cfg : Config
  deriving DecidableEq, Repr

/-- What one step or one instruction answers. -/
abbrev Result := Host.Outcome State Fault Refusal

/-- The values that reset leaves unspecified: the draws rA, rX, rY, rS, rC, rZ, rD, rV, rN (R8, R291). -/
structure Draws where
  a : Byte
  x : Byte
  y : Byte
  sp : Byte
  c : Bool
  z : Bool
  d : Bool
  v : Bool
  n : Bool
  deriving DecidableEq, Repr

/-- The draws of `State.reset`. DESIGN CHOICE, unsafe (log entry 1): zero, but S at 0xFD, which R291
names as the common power-on value. -/
def Draws.chosen : Draws :=
  { a := 0x00, x := 0x00, y := 0x00, sp := 0xFD,
    c := false, z := false, d := false, v := false, n := false }

/-- The machine right after reset (70_reset_and_hazards.md R290, R291): PC from the reset vector, I = 1,
no latched fault, the draws of `Draws.chosen`, no memory cell listed, default parameters. -/
def State.reset : State :=
  { pc := Memory.read16 [] 0xFFFC
    a := Draws.chosen.a
    x := Draws.chosen.x
    y := Draws.chosen.y
    sp := Draws.chosen.sp
    p :=
      { c := Draws.chosen.c, z := Draws.chosen.z, i := true, d := Draws.chosen.d, v := Draws.chosen.v,
        n := Draws.chosen.n }
    mem := []
    fault := none
    cfg := Config.default }

end Sys2Proof.Machine
end

