-- ==== Sys2Proof/Machine/Flags.lean ====
section
/-! DEFINITION. The flag algebra (40_execution.md R133 to R137), the status byte (10_state.md R37, R38)
and the bit movements of the shifts (43_shift_rotate.md). -/

namespace Sys2Proof.Machine

/-- The nine-bit sum of `add8` (R134): 0 to 511, exact. -/
def sum9 (a m : Byte) (cin : Bool) : Nat := a.toNat + m.toNat + cin.toNat

/-- `add8(a, m, cin)` (R134): `r = s[7:0]` and `c = s[8]` of the nine-bit sum s. -/
def add8 (a m : Byte) (cin : Bool) : Byte × Bool :=
  (BitVec.ofNat 8 (sum9 a m cin), (sum9 a m cin).testBit 8)

/-- `ovf(a, m, r)` (R135); m is the byte actually added. -/
def ovf (a m r : Byte) : Bool := (a ^^^ m) &&& 0x80 == 0 && (a ^^^ r) &&& 0x80 != 0

/-- `ZN(r)` (R133). -/
def Flags.zn (f : Flags) (r : Byte) : Flags := { f with z := r == 0, n := bitAt r 7 }

/-- `cmp_flags(reg, m)` (R137). -/
def Flags.cmp (f : Flags) (reg m : Byte) : Flags :=
  let t := add8 reg (~~~m) true
  { f with c := t.2 }.zn t.1

/-- `P_image(b)` (10_state.md R37). -/
def Flags.image (f : Flags) (b : Bool) : Byte :=
  bitTo f.n 7 ||| bitTo f.v 6 ||| bitTo true 5 ||| bitTo b 4 ||| bitTo f.d 3 ||| bitTo f.i 2 |||
    bitTo f.z 1 ||| bitTo f.c 0

/-- `SetP(v)` (10_state.md R38): bits 5 and 4 are ignored. -/
def Flags.ofImage (v : Byte) : Flags :=
  { n := bitAt v 7, v := bitAt v 6, d := bitAt v 3, i := bitAt v 2, z := bitAt v 1, c := bitAt v 0 }

/-- The result byte of a shift and the bit it moves into C. -/
abbrev ShiftResult := Byte × Bool

/-- ASL (R181). -/
def shiftAsl (v : Byte) : ShiftResult := (v <<< 1, bitAt v 7)

/-- LSR (R182). -/
def shiftLsr (v : Byte) : ShiftResult := (v >>> 1, bitAt v 0)

/-- ROL (R183): the old C goes into bit 0. -/
def shiftRol (v : Byte) (cin : Bool) : ShiftResult := (v <<< 1 ||| bitTo cin 0, bitAt v 7)

/-- ROR (R184): the old C goes into bit 7. -/
def shiftRor (v : Byte) (cin : Bool) : ShiftResult := (v >>> 1 ||| bitTo cin 7, bitAt v 0)

end Sys2Proof.Machine
end

