-- ==== Sys2Proof/Machine/Ops.lean ====
section
/-! DEFINITION. The shared operations over memory, stack and status: bus accesses (20_memory.md), the
stack unit (40_execution.md R140 to R142), trap entry and return (60_exceptions.md R270, R271), the
invalid-opcode fault (R261) and reset (70_reset_and_hazards.md R290). -/

namespace Sys2Proof.Machine

/-! ## Bus accesses -/

/-- `MemRead(addr, 1)` (R62). -/
def State.read8 (s : State) (a : Addr) : Byte := s.mem.read8 a

/-- `MemRead(addr, 2)` (R64). -/
def State.read16 (s : State) (a : Addr) : Addr := s.mem.read16 a

/-- `MemWrite(addr, 1, v)` (R63). -/
def State.write8 (s : State) (a : Addr) (v : Byte) : State := { s with mem := s.mem.write8 a v }

/-! ## Flags -/

/-- `ZN(r)` on the machine's status register (R133). -/
def State.setZN (s : State) (r : Byte) : State := { s with p := s.p.zn r }

/-! ## The stack unit -/

/-- The address of the stack byte that an S value selects: `0x0100 + S` (10_state.md R34). -/
def stackAddr (sp : Byte) : Addr := 0x0100 + zext16 sp

/-- `Push(v)` (R140). -/
def State.push (s : State) (v : Byte) : State :=
  { s.write8 (stackAddr s.sp) v with sp := s.sp - 1 }

/-- `Pull()` (R141): the byte, and the state with S stepped. -/
def State.pull (s : State) : Byte × State :=
  (s.read8 (stackAddr (s.sp + 1)), { s with sp := s.sp + 1 })

/-- `Push16(w)` (R142): high byte first. -/
def State.push16 (s : State) (w : Addr) : State := (s.push (highByte w)).push (lowByte w)

/-- `Pull16()` (R142): low byte first. -/
def State.pull16 (s : State) : Addr × State :=
  let lo := s.pull
  let hi := lo.2.pull
  (word hi.1 lo.1, hi.2)

/-! ## Trap entry, trap return, the invalid-opcode fault -/

/-- The BRK vector (R238, R270). -/
def brkVector : Addr := 0xFFFE

/-- The reset vector (R290, R292). -/
def resetVector : Addr := 0xFFFC

/-- Trap entry (R270): the return address and then `P_image(1)` go on the stack, I is set after the
image is pushed (R302), and PC comes from the vector. -/
def State.enterTrap (s : State) (ret : Addr) : State :=
  let t := (s.push16 ret).push (s.p.image true)
  { t with p := { t.p with i := true }, pc := t.read16 brkVector }

/-- Trap return (R271, R239): the six flags, then the return address with no adjustment. -/
def State.returnFromTrap (s : State) : State :=
  let v := s.pull
  let ret := v.2.pull16
  { ret.2 with p := Flags.ofImage v.1, pc := ret.1 }

/-- The invalid-opcode fault (R261): the latch takes `InvalidOpcode(op, pc)`; nothing else changes. -/
def State.latchInvalidOpcode (s : State) (op : Byte) : State :=
  { s with fault := some (.invalidOpcode op s.pc) }

/-- What a step reports of a state: a latched fault is returned as `Fault` (R49, R121). -/
def reportLatch (t : State) : Result :=
  match t.fault with
  | some f => .fault f
  | none => .next t

/-! ## Reset -/

/-- `reset()` (R290) from any state, with the draws of R8: PC from the vector, I = 1, the latch clear,
memory and configuration as they are. -/
def State.resetWith (s : State) (r : Draws) : State :=
  { pc := s.read16 resetVector
    a := r.a
    x := r.x
    y := r.y
    sp := r.sp
    p := { c := r.c, z := r.z, i := true, d := r.d, v := r.v, n := r.n }
    mem := s.mem
    fault := none
    cfg := s.cfg }

end Sys2Proof.Machine
end

