-- ==== Sys2Proof/Machine/Operands.lean ====
section
/-! DEFINITION. The addressing-mode resolver (40_execution.md R125 to R131) and the use of the operand it
gives (R132; 00_scope.md R13). -/

namespace Sys2Proof.Machine

/-! ## The pieces that modes share -/

/-- The zero-page index sum, truncated to one byte (R126). -/
def zpIndexed (b index : Byte) : Byte := b + index

/-- The 16-bit index sum, modulo 65536 (R129). -/
def indexed (base : Addr) (index : Byte) : Addr := base + zext16 index

/-- `ZpRead16(z)` (R127): the pointer's high byte stays in the zero page when `ZP_POINTER_WRAP`. -/
def State.zpRead16 (s : State) (z : Byte) : Addr :=
  if s.cfg.zpPointerWrap then word (s.read8 (zext16 (z + 1))) (s.read8 (zext16 z))
  else s.read16 (zext16 z)

/-- `IndRead16(p)` (R128): the high byte stays in the pointer's page when `JMP_IND_PAGE_WRAP`. -/
def State.indRead16 (s : State) (p : Addr) : Addr :=
  if s.cfg.jmpIndPageWrap then
    word (s.read8 ((p &&& 0xFF00) ||| zext16 (lowByte (p + 1)))) (s.read8 p)
  else s.read16 p

/-! ## Effective addresses (R125) -/

/-- The effective address of a memory operand. -/
def effAddr (m : MemMode) (s : State) : Addr :=
  match m with
  | .zp b => zext16 b
  | .zpx b => zext16 (zpIndexed b s.x)
  | .zpy b => zext16 (zpIndexed b s.y)
  | .abs w => w
  | .absx w => indexed w s.x
  | .absy w => indexed w s.y
  | .izx b => s.zpRead16 (zpIndexed b s.x)
  | .izy b => indexed (s.zpRead16 b) s.y

/-- The target of JMP (48_stack_control.md R236): memory at the target is not read. -/
def jumpTarget (t : JumpOpnd) (s : State) : Addr :=
  match t with
  | .abs w => w
  | .ind w => s.indRead16 w

/-! ## Load and Store (00_scope.md R13) -/

/-- The byte in the cell of a memory operand. -/
def loadMem (m : MemMode) (s : State) : Byte := s.read8 (effAddr m s)

/-- `Load(opnd)` of a read instruction. -/
def loadSrc (o : Src) (s : State) : Byte :=
  match o with
  | .imm b => b
  | .mem m => loadMem m s

/-- `Load(opnd)` of a shift: A for `Acc`, else the cell. -/
def loadRmw (o : RmwOpnd) (s : State) : Byte :=
  match o with
  | .acc => s.a
  | .mem m => loadMem m s

/-- `MemWrite(ea, 1, v)` on a memory operand. -/
def storeMem (m : MemMode) (v : Byte) (s : State) : State := s.write8 (effAddr m s) v

/-- `Store(opnd, v)` of a shift: into A for `Acc`, else into the cell. -/
def storeRmw (o : RmwOpnd) (v : Byte) (s : State) : State :=
  match o with
  | .acc => { s with a := v }
  | .mem m => storeMem m v s

/-! ## The resolver as the spec states it, on the bytes in memory -/

/-- The tagged operand of R13. -/
inductive Tagged where
  /-- Implied: no operand. -/
  | none
  /-- The accumulator. -/
  | acc
  /-- A 16-bit effective address; of an Immediate operand, pc0 + 1. -/
  | addr (ea : Addr)
  /-- A sign-extended displacement. -/
  | rel (d : Addr)
  deriving DecidableEq, Repr

/-- `resolve(mode, pc0)` (R125), reading the operand bytes at pc0 + 1 and pc0 + 2. -/
def resolve (m : Mode) (pc0 : Addr) (s : State) : Tagged :=
  let b1 := s.read8 (pc0 + 1)
  let w := s.read16 (pc0 + 1)
  match m with
  | .imp | .none => .none
  | .acc => .acc
  | .imm => .addr (pc0 + 1)
  | .zp => .addr (zext16 b1)
  | .zpx => .addr (zext16 (b1 + s.x))
  | .zpy => .addr (zext16 (b1 + s.y))
  | .abs => .addr w
  | .absx => .addr (w + zext16 s.x)
  | .absy => .addr (w + zext16 s.y)
  | .rel => .rel (sext16 b1)
  | .ind => .addr (s.indRead16 w)
  | .izx => .addr (s.zpRead16 (b1 + s.x))
  | .izy => .addr (s.zpRead16 b1 + zext16 s.y)

/-- The tagged operand of a memory operand. -/
def tagMem (m : MemMode) (s : State) : Tagged := .addr (effAddr m s)

/-- The tagged operand of a read operand, for an instruction at `pc0`. -/
def tagSrc (o : Src) (pc0 : Addr) (s : State) : Tagged :=
  match o with
  | .imm _ => .addr (pc0 + 1)
  | .mem m => tagMem m s

/-- The tagged operand of a shift. -/
def tagRmw (o : RmwOpnd) (s : State) : Tagged :=
  match o with
  | .acc => .acc
  | .mem m => tagMem m s

/-- The tagged operand that an instruction at `pc0` works on. -/
def taggedOperand (i : Instr) (pc0 : Addr) (s : State) : Tagged :=
  match i with
  | .adc o | .sbc o | .cmp o | .cpx o | .cpy o | .and o | .ora o | .eor o
  | .lda o | .ldx o | .ldy o => tagSrc o pc0 s
  | .bit m | .inc m | .dec m | .sta m | .stx m | .sty m => tagMem m s
  | .asl o | .lsr o | .rol o | .ror o => tagRmw o s
  | .bcc d | .bcs d | .beq d | .bne d | .bmi d | .bpl d | .bvc d | .bvs d => .rel (sext16 d)
  | .jsr w => .addr w
  | .jmp t => .addr (jumpTarget t s)
  | .inx | .iny | .dex | .dey | .tax | .tay | .txa | .tya | .tsx | .txs
  | .pha | .php | .pla | .plp | .rts | .brk _ | .rti
  | .sec | .sei | .sed | .clc | .cli | .cld | .clv | .nop | .invalid _ => .none

end Sys2Proof.Machine
end

