-- ==== Sys2Proof/Machine/Arithmetic.lean ====
section
/-! DEFINITION. ADC, SBC, CMP, CPX, CPY (41_arithmetic.md). Arithmetic is binary whatever D holds (R162). -/

namespace Sys2Proof.Machine

/-- `A + m + C` into A, with C, V and ZN (R160, R161); V is computed from the old A (R302). -/
def addToA (m : Byte) (s : State) : State :=
  let t := add8 s.a m s.p.c
  { s with a := t.1, p := { s.p with c := t.2, v := ovf s.a m t.1 } }.setZN t.1

/-- Sets C, Z and N from comparing a register with a byte (R137). -/
def compareWith (reg m : Byte) (s : State) : State := { s with p := s.p.cmp reg m }

/-- ADC (R160). -/
def execAdc (o : Src) (s : State) : Result := .next (addToA (loadSrc o s) s)

/-- SBC (R161): the byte actually added is `~m`. -/
def execSbc (o : Src) (s : State) : Result := .next (addToA (~~~(loadSrc o s)) s)

/-- CMP (R163). -/
def execCmp (o : Src) (s : State) : Result := .next (compareWith s.a (loadSrc o s) s)

/-- CPX (R164). -/
def execCpx (o : Src) (s : State) : Result := .next (compareWith s.x (loadSrc o s) s)

/-- CPY (R165). -/
def execCpy (o : Src) (s : State) : Result := .next (compareWith s.y (loadSrc o s) s)

end Sys2Proof.Machine
end

