-- ==== Sys2Proof/Machine/Branch.lean ====
section
/-! DEFINITION. The conditional branches (47_branch.md): flag and expected value of each as R221 gives
them. PC is `u16(pc0 + 2)` when the body starts. -/

namespace Sys2Proof.Machine

/-- The body of every branch (R220): `if F = e: PC <- u16(PC + d)`. -/
def branchIf (flag expected : Bool) (d : Byte) (s : State) : State :=
  if flag = expected then { s with pc := s.pc + sext16 d } else s

/-- BCC (R222). -/
def execBcc (d : Byte) (s : State) : Result := .next (branchIf s.p.c false d s)

/-- BCS (R223). -/
def execBcs (d : Byte) (s : State) : Result := .next (branchIf s.p.c true d s)

/-- BEQ (R224). -/
def execBeq (d : Byte) (s : State) : Result := .next (branchIf s.p.z true d s)

/-- BNE (R225). -/
def execBne (d : Byte) (s : State) : Result := .next (branchIf s.p.z false d s)

/-- BMI (R226). -/
def execBmi (d : Byte) (s : State) : Result := .next (branchIf s.p.n true d s)

/-- BPL (R227). -/
def execBpl (d : Byte) (s : State) : Result := .next (branchIf s.p.n false d s)

/-- BVC (R228). -/
def execBvc (d : Byte) (s : State) : Result := .next (branchIf s.p.v false d s)

/-- BVS (R229). -/
def execBvs (d : Byte) (s : State) : Result := .next (branchIf s.p.v true d s)

end Sys2Proof.Machine
end

