-- ==== Sys2Proof/Machine/FlagNop.lean ====
section
/-! DEFINITION. SEC, SEI, SED, CLC, CLI, CLD, CLV, NOP (49_flag_nop.md). -/

namespace Sys2Proof.Machine

/-- SEC (R250). -/
def execSec (s : State) : Result := .next { s with p := { s.p with c := true } }

/-- SEI (R251). -/
def execSei (s : State) : Result := .next { s with p := { s.p with i := true } }

/-- SED (R252). -/
def execSed (s : State) : Result := .next { s with p := { s.p with d := true } }

/-- CLC (R253). -/
def execClc (s : State) : Result := .next { s with p := { s.p with c := false } }

/-- CLI (R254). -/
def execCli (s : State) : Result := .next { s with p := { s.p with i := false } }

/-- CLD (R255). -/
def execCld (s : State) : Result := .next { s with p := { s.p with d := false } }

/-- CLV (R256). -/
def execClv (s : State) : Result := .next { s with p := { s.p with v := false } }

/-- NOP (R257): the prologue's PC advance is its only effect. -/
def execNop (s : State) : Result := .next s

end Sys2Proof.Machine
end

