-- ==== Sys2Proof/Machine/IncDec.lean ====
section
/-! DEFINITION. INC, DEC, INX, INY, DEX, DEY (44_incdec.md). -/

namespace Sys2Proof.Machine

/-- A result byte into X, and ZN of it. -/
def setX (r : Byte) (s : State) : State := { s with x := r }.setZN r

/-- A result byte into Y, and ZN of it. -/
def setY (r : Byte) (s : State) : State := { s with y := r }.setZN r

/-- INC (R190): the cell is read once, then written once. -/
def execInc (m : MemMode) (s : State) : Result :=
  let r := loadMem m s + 1
  .next ((storeMem m r s).setZN r)

/-- DEC (R191). -/
def execDec (m : MemMode) (s : State) : Result :=
  let r := loadMem m s - 1
  .next ((storeMem m r s).setZN r)

/-- INX (R192). -/
def execInx (s : State) : Result := .next (setX (s.x + 1) s)

/-- INY (R193). -/
def execIny (s : State) : Result := .next (setY (s.y + 1) s)

/-- DEX (R194). -/
def execDex (s : State) : Result := .next (setX (s.x - 1) s)

/-- DEY (R195). -/
def execDey (s : State) : Result := .next (setY (s.y - 1) s)

end Sys2Proof.Machine
end

