-- ==== Sys2Proof/Machine/Invalid.lean ====
section
/-! DEFINITION. The 105 invalid opcode values (60_exceptions.md R261). -/

namespace Sys2Proof.Machine

/-- An invalid opcode latches `InvalidOpcode(op, pc0)` and changes nothing else; `step` reports the
latched fault in the same step (`reportLatch`, R121). -/
def execInvalid (op : Byte) (s : State) : Result := .next (s.latchInvalidOpcode op)

end Sys2Proof.Machine
end

