-- ==== Sys2Proof/Machine/Logical.lean ====
section
/-! DEFINITION. AND, ORA, EOR, BIT (42_logical.md). -/

namespace Sys2Proof.Machine

/-- A result byte into A, and ZN of it: `A <- r; ZN(A)`. -/
def setA (r : Byte) (s : State) : State := { s with a := r }.setZN r

/-- AND (R171). -/
def execAnd (o : Src) (s : State) : Result := .next (setA (s.a &&& loadSrc o s) s)

/-- ORA (R172). -/
def execOra (o : Src) (s : State) : Result := .next (setA (s.a ||| loadSrc o s) s)

/-- EOR (R173). -/
def execEor (o : Src) (s : State) : Result := .next (setA (s.a ^^^ loadSrc o s) s)

/-- BIT (R174): N and V come from the operand, not from `A & m`. -/
def execBit (m : MemMode) (s : State) : Result :=
  let v := loadMem m s
  .next { s with p := { s.p with z := s.a &&& v == 0, n := bitAt v 7, v := bitAt v 6 } }

end Sys2Proof.Machine
end

