-- ==== Sys2Proof/Machine/LoadStore.lean ====
section
/-! DEFINITION. LDA, LDX, LDY, STA, STX, STY (45_load_store.md). Stores set no flag. -/

namespace Sys2Proof.Machine

/-- LDA (R200). -/
def execLda (o : Src) (s : State) : Result := .next (setA (loadSrc o s) s)

/-- LDX (R201). -/
def execLdx (o : Src) (s : State) : Result := .next (setX (loadSrc o s) s)

/-- LDY (R202). -/
def execLdy (o : Src) (s : State) : Result := .next (setY (loadSrc o s) s)

/-- STA (R203). -/
def execSta (m : MemMode) (s : State) : Result := .next (storeMem m s.a s)

/-- STX (R204). -/
def execStx (m : MemMode) (s : State) : Result := .next (storeMem m s.x s)

/-- STY (R205). -/
def execSty (m : MemMode) (s : State) : Result := .next (storeMem m s.y s)

end Sys2Proof.Machine
end

