-- ==== Sys2Proof/Machine/Shift.lean ====
section
/-! DEFINITION. ASL, LSR, ROL, ROR (43_shift_rotate.md). -/

namespace Sys2Proof.Machine

/-- Stores the result of a shift into its operand and sets C, Z and N (R180 to R184). -/
def storeShift (o : RmwOpnd) (r : ShiftResult) (s : State) : State :=
  let t := storeRmw o r.1 s
  { t with p := { t.p with c := r.2 } }.setZN r.1

/-- ASL (R181). -/
def execAsl (o : RmwOpnd) (s : State) : Result := .next (storeShift o (shiftAsl (loadRmw o s)) s)

/-- LSR (R182). -/
def execLsr (o : RmwOpnd) (s : State) : Result := .next (storeShift o (shiftLsr (loadRmw o s)) s)

/-- ROL (R183). -/
def execRol (o : RmwOpnd) (s : State) : Result :=
  .next (storeShift o (shiftRol (loadRmw o s) s.p.c) s)

/-- ROR (R184). -/
def execRor (o : RmwOpnd) (s : State) : Result :=
  .next (storeShift o (shiftRor (loadRmw o s) s.p.c) s)

end Sys2Proof.Machine
end

