-- ==== Sys2Proof/Machine/StackControl.lean ====
section
/-! DEFINITION. PHA, PHP, PLA, PLP, JSR, RTS, JMP, BRK, RTI (48_stack_control.md). PC is
`u16(pc0 + size)` when a body starts. -/

namespace Sys2Proof.Machine

/-- PHA (R230). -/
def execPha (s : State) : Result := .next (s.push s.a)

/-- PHP (R231): exactly one byte, `P_image(1)`. -/
def execPhp (s : State) : Result := .next (s.push (s.p.image true))

/-- PLA (R232). -/
def execPla (s : State) : Result :=
  let v := s.pull
  .next (setA v.1 v.2)

/-- PLP (R233). -/
def execPlp (s : State) : Result :=
  let v := s.pull
  .next { v.2 with p := Flags.ofImage v.1 }

/-- JSR (R234): the return address is `u16(PC - 1)`, the address of its own last byte. -/
def execJsr (w : Addr) (s : State) : Result := .next { s.push16 (s.pc - 1) with pc := w }

/-- RTS (R235): the pulled address plus one. -/
def execRts (s : State) : Result :=
  let ret := s.pull16
  .next { ret.2 with pc := ret.1 + 1 }

/-- JMP (R236). -/
def execJmp (t : JumpOpnd) (s : State) : Result := .next { s with pc := jumpTarget t s }

/-- The address that BRK pushes (R237): `u16(pc0 + BRK_PUSH_OFFSET)`, where pc0 = PC - 2. -/
def brkReturnAddr (s : State) : Addr := s.pc - 2 + s.cfg.brkPushOffset.toAddr

/-- BRK (R238): trap entry. The padding byte plays no part (30_encoding.md R93). -/
def execBrk (_pad : Byte) (s : State) : Result := .next (s.enterTrap (brkReturnAddr s))

/-- RTI (R239): trap return. -/
def execRti (s : State) : Result := .next s.returnFromTrap

end Sys2Proof.Machine
end

