-- ==== Sys2Proof/Machine/Transfer.lean ====
section
/-! DEFINITION. TAX, TAY, TXA, TYA, TSX, TXS (46_transfer.md). -/

namespace Sys2Proof.Machine

/-- TAX (R210). -/
def execTax (s : State) : Result := .next (setX s.a s)

/-- TAY (R211). -/
def execTay (s : State) : Result := .next (setY s.a s)

/-- TXA (R212). -/
def execTxa (s : State) : Result := .next (setA s.x s)

/-- TYA (R213). -/
def execTya (s : State) : Result := .next (setA s.y s)

/-- TSX (R214). -/
def execTsx (s : State) : Result := .next (setX s.sp s)

/-- TXS (R215): the only transfer that writes no flag. -/
def execTxs (s : State) : Result := .next { s with sp := s.x }

end Sys2Proof.Machine
end

