-- ==== Sys2Proof/Machine/Fetch.lean ====
section
/-! DEFINITION. The prologue of the step (40_execution.md R121, R122): fetch, decode, PC advance; and
placing an instruction where the next step fetches it. -/

namespace Sys2Proof.Machine

/-- The three bytes at the program counter, at `u16(pc0 + k)` (30_encoding.md R91, R131). An instruction
uses as many of them as its size; reading the others has no effect (20_memory.md R73). -/
def fetchBytes (s : State) : List Byte :=
  [s.read8 s.pc, s.read8 (s.pc + 1), s.read8 (s.pc + 2)]

/-- The instruction at the program counter. -/
def fetch (s : State) : Instr :=
  decodeBytes (s.read8 s.pc) (s.read8 (s.pc + 1)) (s.read8 (s.pc + 2))

/-- The state in which an instruction's body starts: `PC = u16(pc0 + size)` (R122); for an invalid opcode
PC stays pc0 (60_exceptions.md R261). -/
def prologue (i : Instr) (s : State) : State :=
  if i.kind = .invalid then s else { s with pc := s.pc + BitVec.ofNat 16 i.size }

/-- The three bytes of an instruction word at the program counter, and no latched fault, since a step
runs nothing while one is latched (60_exceptions.md R262). Bits at or above `nbits` are zero. -/
def placeInstr (s : State) (nbits w : Nat) : State :=
  let insn := w % 2 ^ nbits
  let s0 := s.write8 s.pc (BitVec.ofNat 8 insn)
  let s1 := s0.write8 (s.pc + 1) (BitVec.ofNat 8 (insn / 0x100))
  let s2 := s1.write8 (s.pc + 2) (BitVec.ofNat 8 (insn / 0x10000))
  { s2 with fault := none }

end Sys2Proof.Machine
end

