-- ==== Sys2Proof/Machine/Step.lean ====
section
/-! DEFINITION. One step of the engine (40_execution.md R121), and an instruction word placed where the
next step fetches it. -/

namespace Sys2Proof.Machine

/-- `step()` (R121): a latched fault is reported again (R262); otherwise the instruction at PC runs, on
the state its prologue leaves, and a fault that it latched is reported. -/
def step (s : State) : Host.Outcome State Fault Refusal :=
  match s.fault with
  | some f => .fault f
  | none =>
    match exec (fetch s) (prologue (fetch s) s) with
    | .next t => reportLatch t
    | .fault f => .fault f
    | .refused r => .refused r

/-- The state with the instruction `w` of `nbits` bits at the program counter. -/
def State.withFetchWord (s : State) (nbits w : Nat) : State := placeInstr s nbits w

end Sys2Proof.Machine
end

