-- ==== Sys2Proof/Machine/HostPort.lean ====
section
/-! DEFINITION. The host interface (10_state.md R48 to R51; 70_reset_and_hazards.md R290 to R295, R305):
load, reset, step, run, inspect and peek, each one atomic call (R304). -/

namespace Sys2Proof.Machine

/-- The result of `step()` (R49). -/
inductive StepResult where
  /-- An instruction ran. -/
  | ok
  /-- The step met an invalid opcode, or the fault latch was set. -/
  | fault (f : Fault)
  /-- An instruction without a meaning; never the result in this model. -/
  | refused (r : Refusal)
  deriving DecidableEq, Repr

/-- `step()` as the host sees it: the state afterwards and the result. A fault is latched and nothing
else changes (60_exceptions.md R261, R262). -/
def hostStep (s : State) : State × StepResult :=
  match step s with
  | .next t => (t, .ok)
  | .fault f => ({ s with fault := some f }, .fault f)
  | .refused r => (s, .refused r)

/-- `run()` (R49) that the host stops after at most `n` steps: it returns at the first step that is not
`Ok`. -/
def hostRun : Nat → State → State × StepResult
  | 0, s => (s, .ok)
  | n + 1, s =>
    match hostStep s with
    | (t, .ok) => hostRun n t
    | r => r

/-- What `inspect()` reports (R50). -/
structure Inspection where
  pc : Addr
  a : Byte
  x : Byte
  y : Byte
  sp : Byte
  /-- The status register as `P_image(0)`. -/
  status : Byte
  fault : Option Fault
  deriving DecidableEq, Repr

/-- `inspect()` (R50). -/
def inspect (s : State) : Inspection :=
  { pc := s.pc, a := s.a, x := s.x, y := s.y, sp := s.sp, status := s.p.image false, fault := s.fault }

/-- The block as the host holds it. Before the first reset every register and the latch are unspecified
(R294), so there is only memory. -/
inductive Platform where
  | neverReset (mem : Memory) (cfg : Config)
  | running (s : State)
  deriving DecidableEq, Repr

/-- The host's calls (R48). `reset` carries the draws of R8; `run` the number of steps after which the
host stops it. -/
inductive HostCall where
  | load (addr : Addr) (bytes : List Byte)
  | reset (draws : Draws)
  | step
  | run (n : Nat)
  | inspect
  | peek (addr : Addr)
  deriving DecidableEq, Repr

/-- What the host gets back (R305). -/
inductive HostAnswer where
  | done
  | stepped (r : StepResult)
  | inspected (i : Inspection)
  | peeked (b : Byte)
  /-- The call has no meaning before the first reset (R295, U5). -/
  | notBeforeReset
  deriving DecidableEq, Repr

/-- The block's memory. -/
def Platform.mem : Platform → Memory
  | .neverReset m _ => m
  | .running s => s.mem

/-- The machine that the first reset makes out of a memory; every register comes from the draws. -/
def firstReset (m : Memory) (cfg : Config) (r : Draws) : State :=
  { State.reset with mem := m, cfg := cfg }.resetWith r

/-- One call of the host. -/
def Platform.call (c : HostCall) (b : Platform) : Platform × HostAnswer :=
  match c, b with
  | .load addr bytes, .neverReset m cfg => (.neverReset (m.load addr bytes) cfg, .done)
  | .load addr bytes, .running s => (.running { s with mem := s.mem.load addr bytes }, .done)
  | .reset r, .neverReset m cfg => (.running (firstReset m cfg r), .done)
  | .reset r, .running s => (.running (s.resetWith r), .done)
  | .step, .neverReset m cfg => (.neverReset m cfg, .notBeforeReset)
  | .step, .running s => (.running (hostStep s).1, .stepped (hostStep s).2)
  | .run _, .neverReset m cfg => (.neverReset m cfg, .notBeforeReset)
  | .run n, .running s => (.running (hostRun n s).1, .stepped (hostRun n s).2)
  | .inspect, .neverReset m cfg => (.neverReset m cfg, .notBeforeReset)
  | .inspect, .running s => (.running s, .inspected (inspect s))
  | .peek addr, b => (b, .peeked (b.mem.read8 addr))

end Sys2Proof.Machine
end

