-- ==== Sys2Proof/Safety.lean ====
section
/-! DEFINITION. What a good state and a safe run are, in the terms that claims use. -/

namespace Sys2Proof.Machine

/-- The latch names an invalid opcode that stands at PC (60_exceptions.md R261, R267). -/
def State.latchOk (s : State) : Bool :=
  match s.fault with
  | none => true
  | some (.invalidOpcode op pc) => pc == s.pc && op == s.read8 s.pc && invalidOpcodes.contains op

/-- The invariant of the machine: memory has its canonical form and the latch is truthful. -/
abbrev State.Inv (s : State) : Prop := s.mem.wf = true ∧ s.latchOk = true

/-- A run of `n` steps from `s` that meets no fault and no refusal. -/
def SafeRun (n : Nat) (s : State) : Prop :=
  ∃ t : State, Host.Core.run Sys2Proof.core n s = Host.Outcome.next t

end Sys2Proof.Machine
end

