-- ==== Sys2Proof/Certificates/Slice0/Obligations.lean ====
section
/-! DEFINITION. The statements for the provers. -/

namespace Sys2Proof.Machine

/-! ## The words that the statements use -/

/-- The decoder reads each listed opcode as the instruction beside it, for all operand bytes (byte 1 and
byte 2 of the instruction). -/
def HasOpcodes (l : List (Byte × (Byte → Byte → Instr))) : Prop :=
  ∀ e ∈ l, ∀ b1 b2 : Byte, decodeBytes e.1 b1 b2 = e.2 b1 b2

/-- The eight opcodes of an instruction that has the modes IMM, ZP, ZPX, ABS, ABSX, ABSY, IZX and IZY,
in that order. -/
def HasEightModes (f : Src → Instr) (imm zp zpx abs absx absy izx izy : Byte) : Prop :=
  HasOpcodes
    [(imm, fun b1 _ => f (.imm b1)), (zp, fun b1 _ => f (.mem (.zp b1))),
     (zpx, fun b1 _ => f (.mem (.zpx b1))), (abs, fun b1 b2 => f (.mem (.abs (word b2 b1)))),
     (absx, fun b1 b2 => f (.mem (.absx (word b2 b1)))),
     (absy, fun b1 b2 => f (.mem (.absy (word b2 b1)))),
     (izx, fun b1 _ => f (.mem (.izx b1))), (izy, fun b1 _ => f (.mem (.izy b1)))]

/-- The five opcodes of a shift: ACC, ZP, ZPX, ABS and ABSX, in that order. -/
def HasShiftModes (f : RmwOpnd → Instr) (acc zp zpx abs absx : Byte) : Prop :=
  HasOpcodes
    [(acc, fun _ _ => f .acc), (zp, fun b1 _ => f (.mem (.zp b1))),
     (zpx, fun b1 _ => f (.mem (.zpx b1))), (abs, fun b1 b2 => f (.mem (.abs (word b2 b1)))),
     (absx, fun b1 b2 => f (.mem (.absx (word b2 b1))))]

/-- What an instruction may write: a field left out is `false`, not written. Memory is described by
`Stored` where it is written. -/
structure Writes where
  a : Bool := false
  x : Bool := false
  y : Bool := false
  sp : Bool := false
  pc : Bool := false
  c : Bool := false
  z : Bool := false
  i : Bool := false
  d : Bool := false
  v : Bool := false
  n : Bool := false
  mem : Bool := false
  deriving DecidableEq, Repr

/-- The frame: from `s` to `t` every register, flag and byte of memory that `w` does not name is
unchanged, and so are the fault latch and the configuration. -/
def Frame (w : Writes) (s t : State) : Prop :=
  (w.a = false → t.a = s.a) ∧ (w.x = false → t.x = s.x) ∧ (w.y = false → t.y = s.y) ∧
  (w.sp = false → t.sp = s.sp) ∧ (w.pc = false → t.pc = s.pc) ∧
  (w.c = false → t.p.c = s.p.c) ∧ (w.z = false → t.p.z = s.p.z) ∧ (w.i = false → t.p.i = s.p.i) ∧
  (w.d = false → t.p.d = s.p.d) ∧ (w.v = false → t.p.v = s.p.v) ∧ (w.n = false → t.p.n = s.p.n) ∧
  t.fault = s.fault ∧ t.cfg = s.cfg ∧
  (w.mem = false → ∀ adr : Addr, t.read8 adr = s.read8 adr)

/-- What address `adr` reads as when the listed addresses (and their mirrors) hold the listed bytes and it
read `old` before. -/
def storedOr : List (Addr × Byte) → Addr → Byte → Byte
  | [], _, old => old
  | (a, v) :: l, adr, old => if phys adr = phys a then v else storedOr l adr old

/-- From `s` to `t` the listed addresses (and their mirrors) hold the listed bytes, and every other
address reads as before. -/
def Stored (l : List (Addr × Byte)) (s t : State) : Prop :=
  ∀ adr : Addr, t.read8 adr = storedOr l adr (s.read8 adr)

/-- Z and N are those of the result byte `r` (R133). -/
def ZNOf (r : Byte) (t : State) : Prop := (t.p.z = true ↔ r = 0) ∧ (t.p.n = true ↔ 128 ≤ r.toNat)

/-- The state with flag I replaced. -/
def State.withI (s : State) (b : Bool) : State := { s with p := { s.p with i := b } }

/-- The state with flag D replaced. -/
def State.withD (s : State) (b : Bool) : State := { s with p := { s.p with d := b } }

/-- C, Z and N of comparing a register with a byte (R137), every other piece of state unchanged. -/
def Compared (reg m : Byte) (s t : State) : Prop :=
  (t.p.c = true ↔ m.toNat ≤ reg.toNat) ∧ (t.p.z = true ↔ reg = m) ∧
  (t.p.n = true ↔ 128 ≤ (reg - m).toNat) ∧ Frame { c := true, z := true, n := true } s t

/-- The read operand of an instruction that has one (R132). -/
def srcOperand : Instr → Option Src
  | .adc o | .sbc o | .cmp o | .cpx o | .cpy o | .and o | .ora o | .eor o
  | .lda o | .ldx o | .ldy o => some o
  | .bit m => some (.mem m)
  | _ => none

/-- One branch: opcode, condition, taken and not taken (R220). -/
def BranchRule (opcode : Byte) (f : Byte → Instr) (taken : State → Bool) : Prop :=
  HasOpcodes [(opcode, fun b1 _ => f b1)] ∧
  ∀ (d : Byte) (s : State), ∃ t, exec (f d) s = .next t ∧
    ((t.pc.toNat : Int) = if taken s then ((s.pc.toNat : Int) + d.toInt) % 65536 else s.pc.toNat) ∧
    Frame { pc := true } s t

end Sys2Proof.Machine

open Sys2Proof Sys2Proof.Machine

/-! ## Encoding (30_encoding.md) -/

/-- Decoding the bytes of a well-formed instruction, with anything after them, gives it back. -/
def Obligations.DecodeOfEncodeGivesTheInstructionBack : Prop :=
  ∀ i : Instr, i.wellFormed = true →
    ∃ w, encode i = some w ∧ ∀ rest, decode (w ++ rest) = .ok (i, rest)

/-- What the decoder reads is well-formed, and encoding it gives exactly the bytes it was read from. -/
def Obligations.EncodeOfDecodeGivesTheBytesBack : Prop :=
  ∀ (bs rest : List Byte) (i : Instr), decode bs = .ok (i, rest) →
    i.wellFormed = true ∧ ∃ w, encode i = some w ∧ bs = w ++ rest

/-- R102's example bytes, and one word of each other family, written out byte by byte. -/
def Obligations.DecoderReadsSampleWords : Prop :=
  decode [0xE8] = .ok (.inx, []) ∧
  decode [0x0A] = .ok (.asl .acc, []) ∧
  decode [0xA9, 0x10] = .ok (.lda (.imm 0x10), []) ∧
  decode [0xA5, 0x10] = .ok (.lda (.mem (.zp 0x10)), []) ∧
  decode [0xB5, 0x10] = .ok (.lda (.mem (.zpx 0x10)), []) ∧
  decode [0xB6, 0x10] = .ok (.ldx (.mem (.zpy 0x10)), []) ∧
  decode [0xAD, 0x34, 0x12] = .ok (.lda (.mem (.abs 0x1234)), []) ∧
  decode [0xBD, 0x34, 0x12] = .ok (.lda (.mem (.absx 0x1234)), []) ∧
  decode [0xB9, 0x34, 0x12] = .ok (.lda (.mem (.absy 0x1234)), []) ∧
  decode [0x6C, 0x34, 0x12] = .ok (.jmp (.ind 0x1234), []) ∧
  decode [0xA1, 0x10] = .ok (.lda (.mem (.izx 0x10)), []) ∧
  decode [0xB1, 0x10] = .ok (.lda (.mem (.izy 0x10)), []) ∧
  decode [0xD0, 0xF9] = .ok (.bne 0xF9, []) ∧
  decode [0x69, 0x01] = .ok (.adc (.imm 0x01), []) ∧
  decode [0x24, 0x10] = .ok (.bit (.zp 0x10), []) ∧
  decode [0x8D, 0x00, 0x08] = .ok (.sta (.abs 0x0800), []) ∧
  decode [0xAA] = .ok (.tax, []) ∧
  decode [0x20, 0x10, 0x80] = .ok (.jsr 0x8010, []) ∧
  decode [0x00, 0xEA] = .ok (.brk 0xEA, []) ∧
  decode [0x38] = .ok (.sec, []) ∧
  decode [0xFF, 0x00] = .ok (.invalid 0xFF, [0x00])

/-- R99: exactly the 105 listed opcode values have the descriptor (`INVALID`, `NONE`, 1); every other value has
a kind and a mode that R97 lists it under. -/
def Obligations.InvalidOpcodesAreExactlyTheListedOnes : Prop :=
  invalidOpcodes.length = 105 ∧ invalidOpcodes.Nodup ∧
  ∀ op : Byte,
    if op ∈ invalidOpcodes then descriptor op = { kind := .invalid, mode := .none, size := 1 }
    else (descriptor op).kind ≠ .invalid ∧ ((descriptor op).mode, op) ∈ opcodesOf (descriptor op).kind

/-- R92, R93 and R101: the size of an instruction is fixed by its mode, but BRK's, which is 2; it is the length
of the encoding and is told from the opcode byte alone. -/
def Obligations.InstructionSizeIsFixedByMode : Prop :=
  (∀ i w, encode i = some w →
    w.length = if i.kind = .brk then 2
      else if i.mode ∈ [.imp, .acc, .none] then 1
      else if i.mode ∈ [.imm, .zp, .zpx, .zpy, .rel, .izx, .izy] then 2
      else 3) ∧
  ∀ op b1 b2 : Byte, (decodeBytes op b1 b2).size = (descriptor op).size ∧
    (decodeBytes op b1 b2).kind = (descriptor op).kind ∧ (decodeBytes op b1 b2).mode = (descriptor op).mode

/-! ## The step (40_execution.md section 1; 60_exceptions.md section 1) -/

/-- R121, R122: when the bytes at PC decode to a valid instruction, the step is that instruction's body in the
state with PC advanced by the instruction's size. -/
def Obligations.StepRunsTheDecodedInstruction : Prop :=
  ∀ (s : State) (i : Instr) (rest : List Byte), s.fault = none →
    decode [s.read8 s.pc, s.read8 (s.pc + 1), s.read8 (s.pc + 2)] = .ok (i, rest) → i.kind ≠ .invalid →
    i.wellFormed = true ∧ step s = exec i { s with pc := s.pc + BitVec.ofNat 16 i.size }

/-- An invalid opcode latches `InvalidOpcode(op, pc0)`, changes nothing else and is returned as a fault; a valid opcode
never faults: the clauses on `step` and `hostStep` are R261's. The first clause is the model's reading (DEDUCED, log
entry 7): the spec gives an invalid opcode no execute body, and that its meaning answers the latched state, which `step`
then reports as the fault, is how this model splits R261 between `exec` and `step`. -/
def Obligations.InvalidOpcodeFaultsAndIsLatched : Prop :=
  (∀ (op : Byte) (s : State),
    exec (.invalid op) s = .next { s with fault := some (.invalidOpcode op s.pc) }) ∧
  ∀ s : State, s.fault = none →
    if s.read8 s.pc ∈ invalidOpcodes then
      step s = .fault (.invalidOpcode (s.read8 s.pc) s.pc) ∧
      hostStep s =
        ({ s with fault := some (.invalidOpcode (s.read8 s.pc) s.pc) },
          .fault (.invalidOpcode (s.read8 s.pc) s.pc))
    else ∃ t, step s = .next t ∧ hostStep s = (t, .ok) ∧ t.fault = none

/-- R262: while a fault is latched every step returns it and changes no state; of the host's calls only reset
clears the latch. -/
def Obligations.FaultLatchIsStickyUntilReset : Prop :=
  ∀ (s : State) (f : Fault), s.fault = some f →
    step s = .fault f ∧ hostStep s = (s, .fault f) ∧
    (∀ n, hostRun (n + 1) s = (s, .fault f)) ∧
    (∀ r : Draws, (s.resetWith r).fault = none) ∧
    ∀ c : HostCall, (∀ r, c ≠ .reset r) →
      ∃ t, (Platform.call c (.running s)).1 = .running t ∧ t.fault = some f

/-- The invariant of the machine (canonical memory, truthful latch) is kept by every step that answers a next
state. Canonical memory is the model's own convention (log entry 2). -/
def Obligations.StepKeepsTheInvariant : Prop :=
  ∀ s t : State, s.Inv → step s = .next t → t.Inv

/-- The invariant holds in the reset state. -/
def Obligations.ResetStateMeetsTheInvariant : Prop := State.reset.Inv

/-- The invariant is kept by the host's step also when it faults, so that a latched fault always names the
invalid opcode at PC (R267), and by reset with any draws. -/
def Obligations.HostStepAndResetKeepTheInvariant : Prop :=
  ∀ s : State, s.Inv → (hostStep s).1.Inv ∧ ∀ r : Draws, (s.resetWith r).Inv

/-- R39: "No instruction writes a flag that its rule does not list": whenever a flag's value changes, the
instruction is one of its writers in R39's table. -/
def Obligations.FlagsChangeOnlyByTheirWriters : Prop :=
  ∀ (i : Instr) (s t : State), exec i s = .next t →
    (t.p.c ≠ s.p.c → i.kind ∈ ([.adc, .sbc, .cmp, .cpx, .cpy, .asl, .lsr, .rol, .ror, .plp, .rti, .sec,
      .clc] : List Kind)) ∧
    (t.p.z ≠ s.p.z ∨ t.p.n ≠ s.p.n → i.kind ∈ ([.adc, .sbc, .cmp, .cpx, .cpy, .and, .ora, .eor, .bit,
      .asl, .lsr, .rol, .ror, .inc, .dec, .inx, .iny, .dex, .dey, .lda, .ldx, .ldy, .tax, .tay, .txa, .tya,
      .tsx, .pla, .plp, .rti] : List Kind)) ∧
    (t.p.v ≠ s.p.v → i.kind ∈ ([.adc, .sbc, .bit, .plp, .rti, .clv] : List Kind)) ∧
    (t.p.i ≠ s.p.i → i.kind ∈ ([.brk, .plp, .rti, .sei, .cli] : List Kind)) ∧
    (t.p.d ≠ s.p.d → i.kind ∈ ([.plp, .rti, .sed, .cld] : List Kind))

/-- R32, R34 and R40's absence of other state: whenever A, X, Y, S, PC, memory, the latch or the configuration
changes in an execute body, the instruction is one of the writers that the spec lists. -/
def Obligations.RegistersAndMemoryChangeOnlyByTheirWriters : Prop :=
  ∀ (i : Instr) (s t : State), exec i s = .next t →
    (t.a ≠ s.a → i.kind ∈ ([.adc, .sbc, .and, .ora, .eor, .lda, .txa, .tya, .pla] : List Kind) ∨
      i ∈ ([.asl .acc, .lsr .acc, .rol .acc, .ror .acc] : List Instr)) ∧
    (t.x ≠ s.x → i.kind ∈ ([.ldx, .inx, .dex, .tax, .tsx] : List Kind)) ∧
    (t.y ≠ s.y → i.kind ∈ ([.ldy, .iny, .dey, .tay] : List Kind)) ∧
    (t.sp ≠ s.sp → i.kind ∈ ([.pha, .php, .pla, .plp, .jsr, .rts, .brk, .rti, .txs] : List Kind)) ∧
    (t.pc ≠ s.pc → i.kind ∈ ([.bcc, .bcs, .beq, .bne, .bmi, .bpl, .bvc, .bvs, .jsr, .rts, .jmp, .brk,
      .rti] : List Kind)) ∧
    (t.mem ≠ s.mem → (i.kind ∈ ([.sta, .stx, .sty, .inc, .dec, .pha, .php, .jsr, .brk] : List Kind)) ∨
      ∃ m, i ∈ ([.asl (.mem m), .lsr (.mem m), .rol (.mem m), .ror (.mem m)] : List Instr)) ∧
    (t.fault ≠ s.fault → i.kind = .invalid) ∧ t.cfg = s.cfg

/-- R263: the interrupt-disable flag steers nothing. Replacing I before an instruction changes nothing after it but
I itself (nothing at all where the instruction writes I), and for PHP and BRK the pushed status byte. -/
def Obligations.InterruptDisableFlagSteersNothing : Prop :=
  ∀ (i : Instr) (s : State) (b : Bool), ∃ t t', exec i s = .next t ∧ exec i (s.withI b) = .next t' ∧
    (i.kind ∉ ([.php, .brk] : List Kind) →
      t' = if i.kind ∈ ([.plp, .rti, .sei, .cli] : List Kind) then t else t.withI b) ∧
    (i.kind = .php →
      t' = { t.withI b with mem := t'.mem } ∧
      ∀ adr, phys adr ≠ phys (stackAddr s.sp) → t'.read8 adr = t.read8 adr) ∧
    (i.kind = .brk →
      t' = { t with mem := t'.mem } ∧
      ∀ adr, phys adr ≠ phys (stackAddr (s.sp - 2)) → t'.read8 adr = t.read8 adr)

/-- R162: ADC and SBC never read D; with D replaced they compute exactly the same. -/
def Obligations.DecimalFlagDoesNotAffectArithmetic : Prop :=
  ∀ (o : Src) (s : State) (b : Bool),
    (∃ t, exec (.adc o) s = .next t ∧ exec (.adc o) (s.withD b) = .next (t.withD b)) ∧
    ∃ t, exec (.sbc o) s = .next t ∧ exec (.sbc o) (s.withD b) = .next (t.withD b)

/-! ## Memory (20_memory.md) -/

/-- R61: below 0x2000 the low 11 bits select the cell, elsewhere the address itself. -/
def Obligations.AddressesBelow2000AreMirrored : Prop :=
  ∀ a : Addr, (phys a).toNat = if a.toNat < 0x2000 then a.toNat % 0x800 else a.toNat

/-- R63: a byte write changes the cell of its address and no other, at every address, and no register. -/
def Obligations.ByteWriteChangesOneCell : Prop :=
  ∀ (s : State) (a : Addr) (v : Byte), Stored [(a, v)] s (s.write8 a v) ∧
    Frame { mem := true } s (s.write8 a v)

/-- R65: mirroring idempotence. -/
def Obligations.MirroredReadReturnsTheWrittenByte : Prop :=
  ∀ (s : State) (a a' : Addr) (v : Byte), a &&& 0x07FF = a' &&& 0x07FF → a < 0x2000 → a' < 0x2000 →
    (s.write8 a v).read8 a' = v

/-- R64: a word read is little-endian, each byte mapped on its own, the second address modulo 65536; with the three
edges that R64 names. -/
def Obligations.WordReadMapsEachByteOnItsOwn : Prop :=
  ∀ s : State,
    (∀ a : Addr, (s.read16 a).toNat = 256 * (s.read8 (BitVec.ofNat 16 (a.toNat + 1))).toNat + (s.read8 a).toNat) ∧
    highByte (s.read16 0x07FF) = s.read8 0x0000 ∧
    highByte (s.read16 0x1FFF) = s.read8 0x2000 ∧
    highByte (s.read16 0xFFFF) = s.read8 0x0000

/-- Memory has one canonical form: every write keeps it, and two canonical memories that read alike at every address
are equal. (The canonical form is the model's own, log entry 2.) -/
def Obligations.CanonicalMemoryIsKeptAndUnique : Prop :=
  (∀ (m : Memory) (a : Addr) (v : Byte), m.wf = true → (m.write8 a v).wf = true) ∧
  ∀ m m' : Memory, m.wf = true → m'.wf = true → (∀ a : Addr, m.read8 a = m'.read8 a) → m = m'

/-! ## The stack unit (40_execution.md section 4) -/

/-- R143: a pushed word or byte is pulled again and S is back at its first value, for every S. -/
def Obligations.StackRoundTrip : Prop :=
  ∀ s : State,
    (∀ w : Addr, (s.push16 w).pull16.1 = w ∧ (s.push16 w).pull16.2.sp = s.sp) ∧
    ∀ v : Byte, (s.push v).pull.1 = v ∧ (s.push v).pull.2.sp = s.sp

/-- R144: every stack access is to an address in 0x0100 to 0x01FF, which is physical cell 0x100 + S; a push at S = 0
writes 0x0100 and the next push writes 0x01FF. -/
def Obligations.StackAccessesStayInTheStackPage : Prop :=
  ∀ s : State,
    (stackAddr s.sp).toNat = 0x100 + s.sp.toNat ∧ phys (stackAddr s.sp) = stackAddr s.sp ∧
    (∀ v, Stored [(stackAddr s.sp, v)] s (s.push v) ∧ (s.push v).sp = s.sp - 1) ∧
    s.pull.1 = s.read8 (stackAddr (s.sp + 1)) ∧ s.pull.2 = { s with sp := s.sp + 1 } ∧
    (s.sp = 0 → ∀ v w, stackAddr s.sp = 0x0100 ∧ stackAddr (s.push v).sp = 0x01FF ∧
      ((s.push v).push w).read8 0x0100 = v ∧ ((s.push v).push w).read8 0x01FF = w)

/-! ## The resolver (40_execution.md section 2) -/

/-- R126: in ZPX, ZPY and IZX the sum of operand byte and index is truncated to 8 bits; the address stays in the
zero page. ZP has the operand byte itself. -/
def Obligations.ZeroPageIndexWrapsInTheZeroPage : Prop :=
  ∀ (b : Byte) (s : State),
    (effAddr (.zp b) s).toNat = b.toNat ∧
    (effAddr (.zpx b) s).toNat = (b.toNat + s.x.toNat) % 256 ∧
    (effAddr (.zpy b) s).toNat = (b.toNat + s.y.toNat) % 256 ∧
    effAddr (.izx b) s = s.zpRead16 (BitVec.ofNat 8 (b.toNat + s.x.toNat))

/-- R127: the zero-page pointer read, under both values of `ZP_POINTER_WRAP`. -/
def Obligations.ZeroPagePointerRead : Prop :=
  ∀ (z : Byte) (s : State),
    s.zpRead16 z =
      if s.cfg.zpPointerWrap then
        word (s.read8 (BitVec.ofNat 16 ((z.toNat + 1) % 256))) (s.read8 (BitVec.ofNat 16 z.toNat))
      else word (s.read8 (BitVec.ofNat 16 (z.toNat + 1))) (s.read8 (BitVec.ofNat 16 z.toNat))

/-- R129: in ABSX, ABSY and IZY the index is added as an unsigned byte and the sum wraps modulo 65536. ABS has the
operand word itself. -/
def Obligations.IndexedAddressesWrapAtSixteenBits : Prop :=
  ∀ (w : Addr) (b : Byte) (s : State),
    effAddr (.abs w) s = w ∧
    (effAddr (.absx w) s).toNat = (w.toNat + s.x.toNat) % 65536 ∧
    (effAddr (.absy w) s).toNat = (w.toNat + s.y.toNat) % 65536 ∧
    (effAddr (.izy b) s).toNat = ((s.zpRead16 b).toNat + s.y.toNat) % 65536

/-- R128: the pointer read of JMP indirect, under both values of `JMP_IND_PAGE_WRAP`. -/
def Obligations.JumpIndirectPointerRead : Prop :=
  ∀ (p : Addr) (s : State),
    s.indRead16 p =
      if s.cfg.jmpIndPageWrap then
        word (s.read8 (BitVec.ofNat 16 (p.toNat / 256 * 256 + (p.toNat + 1) % 256))) (s.read8 p)
      else word (s.read8 (BitVec.ofNat 16 (p.toNat + 1))) (s.read8 p)

/-- R125 and R13: the operand that the fetched instruction works on is the one that the spec's resolver gives from
the mode of its opcode and the bytes in memory; and a read instruction loads the byte at the resolved address, which
for Immediate is the byte at pc0 + 1. -/
def Obligations.FetchedOperandIsTheResolvedOne : Prop :=
  ∀ s : State,
    taggedOperand (fetch s) s.pc s = resolve (descriptor (s.read8 s.pc)).mode s.pc s ∧
    ∀ o, srcOperand (fetch s) = some o →
      ∃ ea, taggedOperand (fetch s) s.pc s = .addr ea ∧ loadSrc o (prologue (fetch s) s) = s.read8 ea

/-! ## Arithmetic (41_arithmetic.md) -/

/-- R160: the sum in numbers; V by R135's formula on the old A, which is signed overflow. -/
def Obligations.AdcAddsWithCarry : Prop :=
  HasEightModes .adc 0x69 0x65 0x75 0x6D 0x7D 0x79 0x61 0x71 ∧
  ∀ (o : Src) (s : State), ∃ t, exec (.adc o) s = .next t ∧
    (let m := loadSrc o s
     let sum := s.a.toNat + m.toNat + s.p.c.toNat
     t.a.toNat = sum % 256 ∧ (t.p.c = true ↔ 256 ≤ sum) ∧
     t.p.v = (!(s.a ^^^ m).getLsbD 7 && (s.a ^^^ t.a).getLsbD 7) ∧
     (t.p.v = true ↔
       s.a.toInt + m.toInt + s.p.c.toNat < -128 ∨ 127 < s.a.toInt + m.toInt + s.p.c.toNat)) ∧
    ZNOf t.a t ∧ Frame { a := true, c := true, v := true, z := true, n := true } s t

/-- R161: the result in numbers, C as "no borrow", V by R135's formula on the added byte `~m`, which is signed overflow
of the difference. -/
def Obligations.SbcSubtractsWithBorrow : Prop :=
  HasEightModes .sbc 0xE9 0xE5 0xF5 0xED 0xFD 0xF9 0xE1 0xF1 ∧
  ∀ (o : Src) (s : State), ∃ t, exec (.sbc o) s = .next t ∧
    (let m := loadSrc o s
     let borrow := 1 - s.p.c.toNat
     (t.a.toNat : Int) = ((s.a.toNat : Int) - m.toNat - borrow) % 256 ∧
     (t.p.c = true ↔ m.toNat + borrow ≤ s.a.toNat) ∧
     t.p.v = (!(s.a ^^^ ~~~m).getLsbD 7 && (s.a ^^^ t.a).getLsbD 7) ∧
     (t.p.v = true ↔ s.a.toInt - m.toInt - borrow < -128 ∨ 127 < s.a.toInt - m.toInt - borrow)) ∧
    ZNOf t.a t ∧ Frame { a := true, c := true, v := true, z := true, n := true } s t

/-- R163, R164, R165: C is the unsigned comparison, Z equality, N bit 7 of the difference; nothing else changes. -/
def Obligations.CompareSetsCarryZeroNegative : Prop :=
  HasEightModes .cmp 0xC9 0xC5 0xD5 0xCD 0xDD 0xD9 0xC1 0xD1 ∧
  HasOpcodes
    [(0xE0, fun b1 _ => .cpx (.imm b1)), (0xE4, fun b1 _ => .cpx (.mem (.zp b1))),
     (0xEC, fun b1 b2 => .cpx (.mem (.abs (word b2 b1)))),
     (0xC0, fun b1 _ => .cpy (.imm b1)), (0xC4, fun b1 _ => .cpy (.mem (.zp b1))),
     (0xCC, fun b1 b2 => .cpy (.mem (.abs (word b2 b1))))] ∧
  ∀ (o : Src) (s : State),
    (∃ t, exec (.cmp o) s = .next t ∧ Compared s.a (loadSrc o s) s t) ∧
    (∃ t, exec (.cpx o) s = .next t ∧ Compared s.x (loadSrc o s) s t) ∧
    ∃ t, exec (.cpy o) s = .next t ∧ Compared s.y (loadSrc o s) s t

/-! ## Logical (42_logical.md) -/

/-- R171, R172, R173. -/
def Obligations.LogicalCombinesIntoA : Prop :=
  HasEightModes .and 0x29 0x25 0x35 0x2D 0x3D 0x39 0x21 0x31 ∧
  HasEightModes .ora 0x09 0x05 0x15 0x0D 0x1D 0x19 0x01 0x11 ∧
  HasEightModes .eor 0x49 0x45 0x55 0x4D 0x5D 0x59 0x41 0x51 ∧
  ∀ (o : Src) (s : State),
    (∃ t, exec (.and o) s = .next t ∧ t.a = s.a &&& loadSrc o s ∧ ZNOf t.a t ∧
      Frame { a := true, z := true, n := true } s t) ∧
    (∃ t, exec (.ora o) s = .next t ∧ t.a = s.a ||| loadSrc o s ∧ ZNOf t.a t ∧
      Frame { a := true, z := true, n := true } s t) ∧
    ∃ t, exec (.eor o) s = .next t ∧ t.a = s.a ^^^ loadSrc o s ∧ ZNOf t.a t ∧
      Frame { a := true, z := true, n := true } s t

/-- R174: Z from `A & m`, N and V from the operand's bits 7 and 6; A is not written. -/
def Obligations.BitTestsMemoryAgainstA : Prop :=
  HasOpcodes [(0x24, fun b1 _ => .bit (.zp b1)), (0x2C, fun b1 b2 => .bit (.abs (word b2 b1)))] ∧
  ∀ (m : MemMode) (s : State), ∃ t, exec (.bit m) s = .next t ∧
    (t.p.z = true ↔ s.a &&& loadMem m s = 0) ∧ t.p.n = (loadMem m s).getLsbD 7 ∧
    t.p.v = (loadMem m s).getLsbD 6 ∧ Frame { z := true, n := true, v := true } s t

/-! ## Shifts and rotates (43_shift_rotate.md) -/

namespace Sys2Proof.Machine

/-- A shift with result byte `r` of the operand and carry `c` (R180): the result goes into A or into the operand's
cell, C, Z and N are set, nothing else changes. -/
def Shifts (f : RmwOpnd → Instr) (r : Byte → Bool → Nat) (c : Byte → Bool) : Prop :=
  ∀ s : State,
    (∃ t, exec (f .acc) s = .next t ∧ t.a.toNat = r s.a s.p.c ∧ t.p.c = c s.a ∧ ZNOf t.a t ∧
      Frame { a := true, c := true, z := true, n := true } s t) ∧
    ∀ m : MemMode, ∃ t b, exec (f (.mem m)) s = .next t ∧ b.toNat = r (loadMem m s) s.p.c ∧
      Stored [(effAddr m s, b)] s t ∧ t.p.c = c (loadMem m s) ∧ ZNOf b t ∧
      Frame { c := true, z := true, n := true, mem := true } s t

end Sys2Proof.Machine

/-- R181, R182: ASL doubles modulo 256 and moves bit 7 into C, LSR halves and moves bit 0 into C. -/
def Obligations.ShiftsMoveOneBitIntoCarry : Prop :=
  HasShiftModes .asl 0x0A 0x06 0x16 0x0E 0x1E ∧ HasShiftModes .lsr 0x4A 0x46 0x56 0x4E 0x5E ∧
  Shifts .asl (fun v _ => 2 * v.toNat % 256) (fun v => v.getLsbD 7) ∧
  Shifts .lsr (fun v _ => v.toNat / 2) (fun v => v.getLsbD 0)

/-- R183, R184: ROL and ROR rotate through the carry. -/
def Obligations.RotatesGoThroughCarry : Prop :=
  HasShiftModes .rol 0x2A 0x26 0x36 0x2E 0x3E ∧ HasShiftModes .ror 0x6A 0x66 0x76 0x6E 0x7E ∧
  Shifts .rol (fun v c => 2 * v.toNat % 256 + c.toNat) (fun v => v.getLsbD 7) ∧
  Shifts .ror (fun v c => v.toNat / 2 + 128 * c.toNat) (fun v => v.getLsbD 0)

/-! ## Increment and decrement (44_incdec.md) -/

/-- R190, R191: the cell of the operand steps by one modulo 256; Z and N are of the new byte. -/
def Obligations.IncDecStepTheCell : Prop :=
  HasOpcodes
    [(0xE6, fun b1 _ => .inc (.zp b1)), (0xF6, fun b1 _ => .inc (.zpx b1)),
     (0xEE, fun b1 b2 => .inc (.abs (word b2 b1))), (0xFE, fun b1 b2 => .inc (.absx (word b2 b1))),
     (0xC6, fun b1 _ => .dec (.zp b1)), (0xD6, fun b1 _ => .dec (.zpx b1)),
     (0xCE, fun b1 b2 => .dec (.abs (word b2 b1))), (0xDE, fun b1 b2 => .dec (.absx (word b2 b1)))] ∧
  ∀ (m : MemMode) (s : State),
    (∃ t b, exec (.inc m) s = .next t ∧ b.toNat = ((loadMem m s).toNat + 1) % 256 ∧
      Stored [(effAddr m s, b)] s t ∧ ZNOf b t ∧ Frame { z := true, n := true, mem := true } s t) ∧
    ∃ t b, exec (.dec m) s = .next t ∧ b.toNat = ((loadMem m s).toNat + 255) % 256 ∧
      Stored [(effAddr m s, b)] s t ∧ ZNOf b t ∧ Frame { z := true, n := true, mem := true } s t

/-- R192 to R195. -/
def Obligations.IndexRegistersStepByOne : Prop :=
  HasOpcodes [(0xE8, fun _ _ => .inx), (0xC8, fun _ _ => .iny), (0xCA, fun _ _ => .dex), (0x88, fun _ _ => .dey)] ∧
  ∀ s : State,
    (∃ t, exec .inx s = .next t ∧ t.x.toNat = (s.x.toNat + 1) % 256 ∧ ZNOf t.x t ∧
      Frame { x := true, z := true, n := true } s t) ∧
    (∃ t, exec .iny s = .next t ∧ t.y.toNat = (s.y.toNat + 1) % 256 ∧ ZNOf t.y t ∧
      Frame { y := true, z := true, n := true } s t) ∧
    (∃ t, exec .dex s = .next t ∧ t.x.toNat = (s.x.toNat + 255) % 256 ∧ ZNOf t.x t ∧
      Frame { x := true, z := true, n := true } s t) ∧
    ∃ t, exec .dey s = .next t ∧ t.y.toNat = (s.y.toNat + 255) % 256 ∧ ZNOf t.y t ∧
      Frame { y := true, z := true, n := true } s t

/-! ## Loads and stores (45_load_store.md) -/

/-- R200, R201, R202. -/
def Obligations.LoadsSetTheRegisterAndZN : Prop :=
  HasEightModes .lda 0xA9 0xA5 0xB5 0xAD 0xBD 0xB9 0xA1 0xB1 ∧
  HasOpcodes
    [(0xA2, fun b1 _ => .ldx (.imm b1)), (0xA6, fun b1 _ => .ldx (.mem (.zp b1))),
     (0xB6, fun b1 _ => .ldx (.mem (.zpy b1))), (0xAE, fun b1 b2 => .ldx (.mem (.abs (word b2 b1)))),
     (0xBE, fun b1 b2 => .ldx (.mem (.absy (word b2 b1)))),
     (0xA0, fun b1 _ => .ldy (.imm b1)), (0xA4, fun b1 _ => .ldy (.mem (.zp b1))),
     (0xB4, fun b1 _ => .ldy (.mem (.zpx b1))), (0xAC, fun b1 b2 => .ldy (.mem (.abs (word b2 b1)))),
     (0xBC, fun b1 b2 => .ldy (.mem (.absx (word b2 b1))))] ∧
  ∀ (o : Src) (s : State),
    (∃ t, exec (.lda o) s = .next t ∧ t.a = loadSrc o s ∧ ZNOf t.a t ∧
      Frame { a := true, z := true, n := true } s t) ∧
    (∃ t, exec (.ldx o) s = .next t ∧ t.x = loadSrc o s ∧ ZNOf t.x t ∧
      Frame { x := true, z := true, n := true } s t) ∧
    ∃ t, exec (.ldy o) s = .next t ∧ t.y = loadSrc o s ∧ ZNOf t.y t ∧
      Frame { y := true, z := true, n := true } s t

/-- R203, R204, R205: the register's byte goes to the effective address and no flag or register changes. -/
def Obligations.StoresWriteOneByteAndNoFlag : Prop :=
  HasOpcodes
    [(0x85, fun b1 _ => .sta (.zp b1)), (0x95, fun b1 _ => .sta (.zpx b1)),
     (0x8D, fun b1 b2 => .sta (.abs (word b2 b1))), (0x9D, fun b1 b2 => .sta (.absx (word b2 b1))),
     (0x99, fun b1 b2 => .sta (.absy (word b2 b1))), (0x81, fun b1 _ => .sta (.izx b1)),
     (0x91, fun b1 _ => .sta (.izy b1)), (0x89, fun _ _ => .invalid 0x89),
     (0x86, fun b1 _ => .stx (.zp b1)), (0x96, fun b1 _ => .stx (.zpy b1)),
     (0x8E, fun b1 b2 => .stx (.abs (word b2 b1))),
     (0x84, fun b1 _ => .sty (.zp b1)), (0x94, fun b1 _ => .sty (.zpx b1)),
     (0x8C, fun b1 b2 => .sty (.abs (word b2 b1)))] ∧
  ∀ (m : MemMode) (s : State),
    (∃ t, exec (.sta m) s = .next t ∧ Stored [(effAddr m s, s.a)] s t ∧ Frame { mem := true } s t) ∧
    (∃ t, exec (.stx m) s = .next t ∧ Stored [(effAddr m s, s.x)] s t ∧ Frame { mem := true } s t) ∧
    ∃ t, exec (.sty m) s = .next t ∧ Stored [(effAddr m s, s.y)] s t ∧ Frame { mem := true } s t

/-! ## Transfers (46_transfer.md) -/

/-- R210 to R215: the byte moves, the source register is unchanged, and all but TXS set Z and N. -/
def Obligations.TransfersMoveTheRegister : Prop :=
  HasOpcodes [(0xAA, fun _ _ => .tax), (0xA8, fun _ _ => .tay), (0x8A, fun _ _ => .txa),
    (0x98, fun _ _ => .tya), (0xBA, fun _ _ => .tsx), (0x9A, fun _ _ => .txs)] ∧
  ∀ s : State,
    (∃ t, exec .tax s = .next t ∧ t.x = s.a ∧ ZNOf s.a t ∧ Frame { x := true, z := true, n := true } s t) ∧
    (∃ t, exec .tay s = .next t ∧ t.y = s.a ∧ ZNOf s.a t ∧ Frame { y := true, z := true, n := true } s t) ∧
    (∃ t, exec .txa s = .next t ∧ t.a = s.x ∧ ZNOf s.x t ∧ Frame { a := true, z := true, n := true } s t) ∧
    (∃ t, exec .tya s = .next t ∧ t.a = s.y ∧ ZNOf s.y t ∧ Frame { a := true, z := true, n := true } s t) ∧
    (∃ t, exec .tsx s = .next t ∧ t.x = s.sp ∧ ZNOf s.sp t ∧ Frame { x := true, z := true, n := true } s t) ∧
    ∃ t, exec .txs s = .next t ∧ t.sp = s.x ∧ Frame { sp := true } s t

/-! ## Branches (47_branch.md) -/

/-- R220 to R229: PC + d modulo 65536 when the flag has its expected value, PC (which is pc0 + 2) when not; no flag,
register or byte of memory changes. -/
def Obligations.BranchesTestOneFlag : Prop :=
  BranchRule 0x90 .bcc (fun s => !s.p.c) ∧ BranchRule 0xB0 .bcs (fun s => s.p.c) ∧
  BranchRule 0xF0 .beq (fun s => s.p.z) ∧ BranchRule 0xD0 .bne (fun s => !s.p.z) ∧
  BranchRule 0x30 .bmi (fun s => s.p.n) ∧ BranchRule 0x10 .bpl (fun s => !s.p.n) ∧
  BranchRule 0x50 .bvc (fun s => !s.p.v) ∧ BranchRule 0x70 .bvs (fun s => s.p.v)

/-! ## Stack and control (48_stack_control.md) -/

/-- R37: the status image in numbers; PHP and BRK push it with break bit 1, the inspection port reports it with 0; bit
5 is 1 in every image. -/
def Obligations.StatusImageLayout : Prop :=
  (∀ (f : Flags) (b : Bool), (f.image b).toNat =
    128 * f.n.toNat + 64 * f.v.toNat + 32 + 16 * b.toNat + 8 * f.d.toNat + 4 * f.i.toNat + 2 * f.z.toNat + f.c.toNat ∧
    (f.image b).getLsbD 5 = true) ∧
  ∀ s : State,
    (∃ t, exec .php s = .next t ∧ t.read8 (stackAddr s.sp) = s.p.image true) ∧
    (∀ pad, ∃ t, exec (.brk pad) s = .next t ∧ t.read8 (stackAddr (s.sp - 2)) = s.p.image true) ∧
    (inspect s).status = s.p.image false

/-- R38: loading the status register, as PLP and RTI do with the byte they pull, takes bits 7, 6, 3, 2, 1, 0 and ignores
bits 5 and 4; it undoes the image. -/
def Obligations.StatusLoadIgnoresBreakAndBitFive : Prop :=
  (∀ v : Byte, Flags.ofImage v =
    { n := v.getLsbD 7, v := v.getLsbD 6, d := v.getLsbD 3, i := v.getLsbD 2, z := v.getLsbD 1, c := v.getLsbD 0 }) ∧
  (∀ v : Byte, Flags.ofImage (v ^^^ 0x30) = Flags.ofImage v ∧ Flags.ofImage (v ||| 0x30) = Flags.ofImage v) ∧
  (∀ (f : Flags) (b : Bool), Flags.ofImage (f.image b) = f) ∧
  ∀ s : State,
    (∃ t, exec .plp s = .next t ∧ t.p = Flags.ofImage (s.read8 (stackAddr (s.sp + 1)))) ∧
    ∃ t, exec .rti s = .next t ∧ t.p = Flags.ofImage (s.read8 (stackAddr (s.sp + 1)))

/-- R230, R231: PHA pushes A, PHP pushes `P_image(1)`; one byte each, no flag. -/
def Obligations.PushesStoreOneByte : Prop :=
  HasOpcodes [(0x48, fun _ _ => .pha), (0x08, fun _ _ => .php)] ∧
  ∀ s : State,
    (∃ t, exec .pha s = .next t ∧ Stored [(stackAddr s.sp, s.a)] s t ∧ t.sp = s.sp - 1 ∧
      Frame { sp := true, mem := true } s t) ∧
    ∃ t, exec .php s = .next t ∧ Stored [(stackAddr s.sp, s.p.image true)] s t ∧ t.sp = s.sp - 1 ∧
      Frame { sp := true, mem := true } s t

/-- R232, R233: PLA pulls A and sets Z and N; PLP pulls the six flags. -/
def Obligations.PullsLoadOneByte : Prop :=
  HasOpcodes [(0x68, fun _ _ => .pla), (0x28, fun _ _ => .plp)] ∧
  ∀ s : State,
    (∃ t, exec .pla s = .next t ∧ t.a = s.read8 (stackAddr (s.sp + 1)) ∧ t.sp = s.sp + 1 ∧ ZNOf t.a t ∧
      Frame { a := true, sp := true, z := true, n := true } s t) ∧
    ∃ t, exec .plp s = .next t ∧ t.p = Flags.ofImage (s.read8 (stackAddr (s.sp + 1))) ∧ t.sp = s.sp + 1 ∧
      Frame { sp := true, c := true, z := true, i := true, d := true, v := true, n := true } s t

/-- R234: JSR pushes the address of its own last byte, high byte first, and jumps. -/
def Obligations.JsrPushesItsLastByteAddress : Prop :=
  HasOpcodes [(0x20, fun b1 b2 => .jsr (word b2 b1))] ∧
  ∀ (w : Addr) (s : State), ∃ t, exec (.jsr w) s = .next t ∧ t.pc = w ∧ t.sp = s.sp - 2 ∧
    Stored [(stackAddr s.sp, highByte (s.pc - 1)), (stackAddr (s.sp - 1), lowByte (s.pc - 1))] s t ∧
    Frame { pc := true, sp := true, mem := true } s t

/-- R235: RTS pulls an address, low byte first, and adds one. -/
def Obligations.RtsPullsAndAddsOne : Prop :=
  HasOpcodes [(0x60, fun _ _ => .rts)] ∧
  ∀ s : State, ∃ t, exec .rts s = .next t ∧
    t.pc = word (s.read8 (stackAddr (s.sp + 2))) (s.read8 (stackAddr (s.sp + 1))) + 1 ∧ t.sp = s.sp + 2 ∧
    Frame { pc := true, sp := true } s t

/-- R236: JMP, absolute and indirect. -/
def Obligations.JmpSetsPc : Prop :=
  HasOpcodes [(0x4C, fun b1 b2 => .jmp (.abs (word b2 b1))), (0x6C, fun b1 b2 => .jmp (.ind (word b2 b1)))] ∧
  ∀ (w : Addr) (s : State),
    (∃ t, exec (.jmp (.abs w)) s = .next t ∧ t.pc = w ∧ Frame { pc := true } s t) ∧
    ∃ t, exec (.jmp (.ind w)) s = .next t ∧ t.pc = s.indRead16 w ∧ Frame { pc := true } s t

/-- R238 with R237: from pc0 (the body starts at pc0 + 2), BRK pushes `u16(pc0 + BRK_PUSH_OFFSET)` high byte first and
`P_image(1)` with the old I, sets I, and jumps through 0xFFFE. -/
def Obligations.BrkEntersTheTrap : Prop :=
  HasOpcodes [(0x00, fun b1 _ => .brk b1)] ∧
  ∀ (pad : Byte) (s : State) (pc0 : Addr), s.pc = pc0 + 2 →
    ∃ t, exec (.brk pad) s = .next t ∧
      (let ret := pc0 + (match s.cfg.brkPushOffset with | .one => 1 | .two => 2)
       Stored [(stackAddr s.sp, highByte ret), (stackAddr (s.sp - 1), lowByte ret),
         (stackAddr (s.sp - 2), s.p.image true)] s t) ∧
      t.sp = s.sp - 3 ∧ t.p.i = true ∧ t.pc = word (s.read8 0xFFFF) (s.read8 0xFFFE) ∧
      Frame { pc := true, sp := true, i := true, mem := true } s t

/-- R239: RTI pulls the six flags, then the return address with no adjustment. -/
def Obligations.RtiReturnsFromTheTrap : Prop :=
  HasOpcodes [(0x40, fun _ _ => .rti)] ∧
  ∀ s : State, ∃ t, exec .rti s = .next t ∧ t.p = Flags.ofImage (s.read8 (stackAddr (s.sp + 1))) ∧
    t.pc = word (s.read8 (stackAddr (s.sp + 3))) (s.read8 (stackAddr (s.sp + 2))) ∧ t.sp = s.sp + 3 ∧
    Frame { pc := true, sp := true, c := true, z := true, i := true, d := true, v := true, n := true } s t

/-- R235's property: a step that runs JSR goes to its target, and an RTS step there comes back to the address of the
JSR plus 3, with S, the flags, A, X and Y as they were. Memory keeps the two pushed bytes. -/
def Obligations.JsrThenRtsResumesAfterTheCall : Prop :=
  ∀ s : State, s.fault = none → s.read8 s.pc = 0x20 →
    ∃ t, step s = .next t ∧ t.pc = word (s.read8 (s.pc + 2)) (s.read8 (s.pc + 1)) ∧
      (t.read8 t.pc = 0x60 →
        ∃ u, step t = .next u ∧ u.pc = s.pc + 3 ∧ u.sp = s.sp ∧ u.p = s.p ∧ u.a = s.a ∧ u.x = s.x ∧ u.y = s.y)

/-- R271, R272: a step that runs BRK enters the handler, and an RTI step there comes back to pc0 +
`BRK_PUSH_OFFSET` with S and all six flags, I among them, as they were. -/
def Obligations.BrkThenRtiRestoresFlagsAndStack : Prop :=
  ∀ s : State, s.fault = none → s.read8 s.pc = 0x00 →
    ∃ t, step s = .next t ∧ t.pc = word (s.read8 0xFFFF) (s.read8 0xFFFE) ∧ t.p.i = true ∧
      (t.read8 t.pc = 0x40 →
        ∃ u, step t = .next u ∧ u.pc = s.pc + s.cfg.brkPushOffset.toAddr ∧ u.sp = s.sp ∧ u.p = s.p ∧
          u.a = s.a ∧ u.x = s.x ∧ u.y = s.y)

/-! ## Flags and NOP (49_flag_nop.md) -/

/-- R250 to R256: each flag instruction writes its one flag and nothing else. -/
def Obligations.FlagInstructionsWriteOneFlag : Prop :=
  HasOpcodes [(0x38, fun _ _ => .sec), (0x78, fun _ _ => .sei), (0xF8, fun _ _ => .sed), (0x18, fun _ _ => .clc),
    (0x58, fun _ _ => .cli), (0xD8, fun _ _ => .cld), (0xB8, fun _ _ => .clv)] ∧
  ∀ s : State,
    (∃ t, exec .sec s = .next t ∧ t.p.c = true ∧ Frame { c := true } s t) ∧
    (∃ t, exec .sei s = .next t ∧ t.p.i = true ∧ Frame { i := true } s t) ∧
    (∃ t, exec .sed s = .next t ∧ t.p.d = true ∧ Frame { d := true } s t) ∧
    (∃ t, exec .clc s = .next t ∧ t.p.c = false ∧ Frame { c := true } s t) ∧
    (∃ t, exec .cli s = .next t ∧ t.p.i = false ∧ Frame { i := true } s t) ∧
    (∃ t, exec .cld s = .next t ∧ t.p.d = false ∧ Frame { d := true } s t) ∧
    ∃ t, exec .clv s = .next t ∧ t.p.v = false ∧ Frame { v := true } s t

/-- R257: NOP's body does nothing; a step that runs it moves PC by one and changes nothing else. 0xEA is the only
opcode that decodes as NOP. -/
def Obligations.NopOnlyAdvancesPc : Prop :=
  (∀ op b1 b2 : Byte, decodeBytes op b1 b2 = .nop ↔ op = 0xEA) ∧
  (∀ s : State, exec .nop s = .next s) ∧
  ∀ s : State, s.fault = none → s.read8 s.pc = 0xEA → step s = .next { s with pc := s.pc + 1 }

/-! ## Reset and the host interface (70_reset_and_hazards.md; 10_state.md section 5) -/

/-- R290: the reset operation, from every state and for all draws. -/
def Obligations.ResetLoadsPcAndSetsI : Prop :=
  ∀ (s : State) (r : Draws),
    (s.resetWith r).pc = word (s.read8 0xFFFD) (s.read8 0xFFFC) ∧ (s.resetWith r).p.i = true ∧
    (s.resetWith r).fault = none ∧ (s.resetWith r).mem = s.mem ∧ (s.resetWith r).cfg = s.cfg ∧
    (s.resetWith r).a = r.a ∧ (s.resetWith r).x = r.x ∧ (s.resetWith r).y = r.y ∧ (s.resetWith r).sp = r.sp ∧
    (s.resetWith r).p.c = r.c ∧ (s.resetWith r).p.z = r.z ∧ (s.resetWith r).p.d = r.d ∧
    (s.resetWith r).p.v = r.v ∧ (s.resetWith r).p.n = r.n

/-- The state named reset is what the reset operation makes of a machine with no memory cell listed; its draws are the
model's choice (DESIGN CHOICE, log entry 1), and so is what an unlisted cell reads as (log entry 2). -/
def Obligations.ResetStateComesFromTheResetOperation : Prop :=
  (∀ s : State, s.mem = [] → s.cfg = Config.default → s.resetWith Draws.chosen = State.reset) ∧
  State.reset.p.i = true ∧ State.reset.fault = none ∧ State.reset.mem = []

/-- Load writes byte i of the buffer by a byte write at `u16(addr + i)`, in order, and changes nothing else: R51's, as are
the clauses on a machine that was never reset. The clause on a running machine is the model's reading (DEDUCED, log entry
10): R51 and R305 speak of load before reset only. -/
def Obligations.LoadWritesTheBufferInOrder : Prop :=
  (∀ (m : Memory) (a : Addr), m.load a [] = m) ∧
  (∀ (m : Memory) (a : Addr) (bs : List Byte) (b : Byte),
    m.load a (bs ++ [b]) = (m.load a bs).write8 (BitVec.ofNat 16 (a.toNat + bs.length)) b) ∧
  ∀ (a : Addr) (bs : List Byte),
    (∀ m cfg, Platform.call (.load a bs) (.neverReset m cfg) = (.neverReset (m.load a bs) cfg, .done)) ∧
    ∀ s, Platform.call (.load a bs) (.running s) = (.running { s with mem := s.mem.load a bs }, .done)

/-- R50: inspect and peek change no state; peek reads through the mapping of read8, and the status register is
reported as `P_image(0)`, with bit 5 = 1 and bit 4 = 0. -/
def Obligations.InspectionChangesNothing : Prop :=
  ∀ s : State,
    (∀ a, Platform.call (.peek a) (.running s) = (.running s, .peeked (s.read8 a))) ∧
    ∃ r, Platform.call .inspect (.running s) = (.running s, .inspected r) ∧
      r.pc = s.pc ∧ r.a = s.a ∧ r.x = s.x ∧ r.y = s.y ∧ r.sp = s.sp ∧ r.fault = s.fault ∧
      r.status = s.p.image false ∧ r.status.getLsbD 5 = true ∧ r.status.getLsbD 4 = false

/-- R295's order: before the first reset neither step nor run does anything, and after load and reset the machine runs
from the loaded vector. What the calls answer before the first reset is the model's choice (DESIGN CHOICE, log entry 8):
step, run and inspect answer `notBeforeReset`, peek answers the byte in memory, and none changes anything. -/
def Obligations.NoStepBeforeTheFirstReset : Prop :=
  ∀ (m : Memory) (cfg : Config),
    Platform.call .step (.neverReset m cfg) = (.neverReset m cfg, .notBeforeReset) ∧
    (∀ n, Platform.call (.run n) (.neverReset m cfg) = (.neverReset m cfg, .notBeforeReset)) ∧
    Platform.call .inspect (.neverReset m cfg) = (.neverReset m cfg, .notBeforeReset) ∧
    (∀ a, Platform.call (.peek a) (.neverReset m cfg) = (.neverReset m cfg, .peeked (m.read8 a))) ∧
    ∀ r : Draws, ∃ s, Platform.call (.reset r) (.neverReset m cfg) = (.running s, .done) ∧
      s.pc = word (m.read8 0xFFFD) (m.read8 0xFFFC) ∧ s.mem = m ∧ s.cfg = cfg ∧ s.p.i = true ∧ s.fault = none

/-- R49: run is a loop of steps that stops at the first fault, bounded by a number of steps (log entry 12). It ends Ok
exactly when that many steps each answer a next state. Otherwise it returns the fault of the step that stopped it, in the
state `u` after the last Ok step with the latch alone set; it is never refused. -/
def Obligations.RunStopsAtTheFirstFault : Prop :=
  ∀ (n : Nat) (s : State),
    (∀ t, hostRun n s = (t, .ok) ↔ Host.Core.run Sys2Proof.core n s = .next t) ∧
    (∀ t f, hostRun n s = (t, .fault f) → Host.Core.run Sys2Proof.core n s = .fault f ∧
      ∃ k u, k < n ∧ hostRun k s = (u, .ok) ∧ step u = .fault f ∧ t = { u with fault := some f }) ∧
    ∀ t r, hostRun n s ≠ (t, .refused r)

/-- R78, R301: a store over the storing instruction's own bytes does not change that instruction, and the next fetch of
them sees it: STA to an address stores A there whatever that address is, and afterwards the bytes at every address, the
instruction's own among them, are those that the store left. -/
def Obligations.StoreOverOwnBytesTakesEffectAtNextFetch : Prop :=
  ∀ (s : State) (ea : Addr), s.fault = none →
    decode [s.read8 s.pc, s.read8 (s.pc + 1), s.read8 (s.pc + 2)] = .ok (.sta (.abs ea), []) →
    ∃ t, step s = .next t ∧ t.pc = s.pc + 3 ∧ Stored [(ea, s.a)] s t ∧
      ∀ u : State, u.mem = t.mem → phys u.pc = phys ea →
        fetch u = decodeBytes s.a (u.read8 (u.pc + 1)) (u.read8 (u.pc + 2))
end

