-- ==== Sys2Proof/Laws/Flags.lean ====
section
/-! SUPPORT. The flag algebra and the byte helpers in numbers. -/

namespace Sys2Proof

/-- `word(hi, lo) = hi * 256 + lo` (00_scope.md R9). -/
theorem word_toNat (hi lo : Byte) : (word hi lo).toNat = 256 * hi.toNat + lo.toNat := by
  have h1 := hi.isLt
  have h2 := lo.isLt
  have hd : hi.setWidth 16 <<< 8 &&& lo.setWidth 16 = 0#16 := by
    ext i hi'
    simp only [BitVec.getElem_and, BitVec.getElem_shiftLeft, BitVec.getElem_setWidth, BitVec.getElem_zero]
    by_cases hlt : i < 8
    · simp [hlt]
    · simp [BitVec.getLsbD_of_ge lo i (by omega)]
  rw [word, ← BitVec.add_eq_or_of_and_eq_zero _ _ hd]
  simp only [BitVec.toNat_add, BitVec.toNat_shiftLeft, BitVec.toNat_setWidth, Nat.shiftLeft_eq]
  omega

theorem lowByte_toNat (w : Addr) : (lowByte w).toNat = w.toNat % 256 := by
  simp [lowByte]

theorem highByte_toNat (w : Addr) : (highByte w).toNat = w.toNat / 256 := by
  have h := w.isLt
  simp only [highByte, BitVec.extractLsb'_toNat, Nat.shiftRight_eq_div_pow]
  omega

/-- A word is put together again from its bytes. -/
@[simp] theorem word_high_low (w : Addr) : word (highByte w) (lowByte w) = w := by
  apply BitVec.eq_of_toNat_eq
  rw [word_toNat, lowByte_toNat, highByte_toNat]
  omega

@[simp] theorem lowByte_word (hi lo : Byte) : lowByte (word hi lo) = lo := by
  apply BitVec.eq_of_toNat_eq
  have := lo.isLt
  rw [lowByte_toNat, word_toNat]
  omega

@[simp] theorem highByte_word (hi lo : Byte) : highByte (word hi lo) = hi := by
  apply BitVec.eq_of_toNat_eq
  have := lo.isLt
  rw [highByte_toNat, word_toNat]
  omega

theorem zext16_toNat (b : Byte) : (zext16 b).toNat = b.toNat := by
  have := b.isLt
  simp only [zext16, BitVec.toNat_setWidth]
  omega

/-- Bit 7 of a byte. -/
theorem bitAt_seven (r : Byte) : bitAt r 7 = decide (128 ≤ r.toNat) := by
  have := r.isLt
  simp only [bitAt, BitVec.getLsbD, Nat.testBit_eq_decide_div_mod_eq]
  congr 1
  simp only [eq_iff_iff]
  omega

end Sys2Proof

namespace Sys2Proof.Machine

theorem sum9_lt (a m : Byte) (c : Bool) : sum9 a m c < 512 := by
  have h1 := a.isLt
  have h2 := m.isLt
  have h3 : c.toNat ≤ 1 := by cases c <;> simp
  simp only [sum9]
  omega

/-- The result byte of `add8` (R134). -/
theorem add8_fst (a m : Byte) (c : Bool) : (add8 a m c).1.toNat = sum9 a m c % 256 := by
  simp [add8]

/-- The carry of `add8` (R134). -/
theorem add8_snd (a m : Byte) (c : Bool) : (add8 a m c).2 = decide (256 ≤ sum9 a m c) := by
  have := sum9_lt a m c
  simp only [add8, Nat.testBit_eq_decide_div_mod_eq]
  congr 1
  simp only [eq_iff_iff]
  omega

theorem not_toNat (m : Byte) : (~~~m).toNat = 255 - m.toNat := by
  simp [BitVec.toNat_not]

end Sys2Proof.Machine
end

