-- ==== Sys2Proof/Laws/PerInstr.lean ====
section
/-! SUPPORT. Statements about every instruction as syntax, one lemma per constructor.
Family OperandLength: an instruction's opcode and operand bytes make up its size (30_encoding.md R91 to
R93). -/

namespace Sys2Proof.Laws.OperandLength

/-- The encoding of `i` is as long as its descriptor's size says. -/
def Statement (i : Instr) : Prop := i.operandBytes.length + 1 = i.size

theorem adc (o : Src) : Statement (.adc o) := by
  rcases o with _ | m
  · rfl
  · cases m <;> rfl
theorem sbc (o : Src) : Statement (.sbc o) := by
  rcases o with _ | m
  · rfl
  · cases m <;> rfl
theorem cmp (o : Src) : Statement (.cmp o) := by
  rcases o with _ | m
  · rfl
  · cases m <;> rfl
theorem cpx (o : Src) : Statement (.cpx o) := by
  rcases o with _ | m
  · rfl
  · cases m <;> rfl
theorem cpy (o : Src) : Statement (.cpy o) := by
  rcases o with _ | m
  · rfl
  · cases m <;> rfl
theorem and (o : Src) : Statement (.and o) := by
  rcases o with _ | m
  · rfl
  · cases m <;> rfl
theorem ora (o : Src) : Statement (.ora o) := by
  rcases o with _ | m
  · rfl
  · cases m <;> rfl
theorem eor (o : Src) : Statement (.eor o) := by
  rcases o with _ | m
  · rfl
  · cases m <;> rfl
theorem bit (m : MemMode) : Statement (.bit m) := by cases m <;> rfl
theorem asl (o : RmwOpnd) : Statement (.asl o) := by
  rcases o with _ | m
  · rfl
  · cases m <;> rfl
theorem lsr (o : RmwOpnd) : Statement (.lsr o) := by
  rcases o with _ | m
  · rfl
  · cases m <;> rfl
theorem rol (o : RmwOpnd) : Statement (.rol o) := by
  rcases o with _ | m
  · rfl
  · cases m <;> rfl
theorem ror (o : RmwOpnd) : Statement (.ror o) := by
  rcases o with _ | m
  · rfl
  · cases m <;> rfl
theorem inc (m : MemMode) : Statement (.inc m) := by cases m <;> rfl
theorem dec (m : MemMode) : Statement (.dec m) := by cases m <;> rfl
theorem inx : Statement .inx := rfl
theorem iny : Statement .iny := rfl
theorem dex : Statement .dex := rfl
theorem dey : Statement .dey := rfl
theorem lda (o : Src) : Statement (.lda o) := by
  rcases o with _ | m
  · rfl
  · cases m <;> rfl
theorem ldx (o : Src) : Statement (.ldx o) := by
  rcases o with _ | m
  · rfl
  · cases m <;> rfl
theorem ldy (o : Src) : Statement (.ldy o) := by
  rcases o with _ | m
  · rfl
  · cases m <;> rfl
theorem sta (m : MemMode) : Statement (.sta m) := by cases m <;> rfl
theorem stx (m : MemMode) : Statement (.stx m) := by cases m <;> rfl
theorem sty (m : MemMode) : Statement (.sty m) := by cases m <;> rfl
theorem tax : Statement .tax := rfl
theorem tay : Statement .tay := rfl
theorem txa : Statement .txa := rfl
theorem tya : Statement .tya := rfl
theorem tsx : Statement .tsx := rfl
theorem txs : Statement .txs := rfl
theorem bcc (d : Byte) : Statement (.bcc d) := rfl
theorem bcs (d : Byte) : Statement (.bcs d) := rfl
theorem beq (d : Byte) : Statement (.beq d) := rfl
theorem bne (d : Byte) : Statement (.bne d) := rfl
theorem bmi (d : Byte) : Statement (.bmi d) := rfl
theorem bpl (d : Byte) : Statement (.bpl d) := rfl
theorem bvc (d : Byte) : Statement (.bvc d) := rfl
theorem bvs (d : Byte) : Statement (.bvs d) := rfl
theorem pha : Statement .pha := rfl
theorem php : Statement .php := rfl
theorem pla : Statement .pla := rfl
theorem plp : Statement .plp := rfl
theorem jsr (w : Addr) : Statement (.jsr w) := rfl
theorem rts : Statement .rts := rfl
theorem jmp (t : JumpOpnd) : Statement (.jmp t) := by cases t <;> rfl
theorem brk (pad : Byte) : Statement (.brk pad) := rfl
theorem rti : Statement .rti := rfl
theorem sec : Statement .sec := rfl
theorem sei : Statement .sei := rfl
theorem sed : Statement .sed := rfl
theorem clc : Statement .clc := rfl
theorem cli : Statement .cli := rfl
theorem cld : Statement .cld := rfl
theorem clv : Statement .clv := rfl
theorem nop : Statement .nop := rfl
theorem invalid (op : Byte) : Statement (.invalid op) := rfl

end Sys2Proof.Laws.OperandLength
end

