-- ==== Sys2Proof/Laws/Decode.lean ====
section
/-! SUPPORT. Case analysis over opcodes, and how an operand word is put together again. -/

namespace Sys2Proof

/-- A fact about every opcode follows from the 256 numerals. -/
theorem byte_cases {P : Byte → Prop} (h : ∀ n, n < 256 → P (BitVec.ofNat 8 n)) (op : Byte) : P op := by
  have := h op.toNat op.isLt
  simpa using this

@[simp] theorem wordBytes_word (hi lo : Byte) : wordBytes (word hi lo) = [lo, hi] := by
  simp [wordBytes]

/-- An opcode's descriptor has a size from 1 to 3. -/
theorem descriptor_size_le (op : Byte) : 1 ≤ (descriptor op).size ∧ (descriptor op).size ≤ 3 := by
  revert op; decide

end Sys2Proof
end

