-- ==== Sys2Proof/Laws/State.lean ====
section
/-! SUPPORT. One lemma per field per shared update of the state, so that no proof unfolds a record update;
and what the pulled bytes are. -/

namespace Sys2Proof.Machine

/-! ### write8 -/

@[simp] theorem write8_pc (s : State) (a : Addr) (v : Byte) : (s.write8 a v).pc = s.pc := rfl
@[simp] theorem write8_a (s : State) (a : Addr) (v : Byte) : (s.write8 a v).a = s.a := rfl
@[simp] theorem write8_x (s : State) (a : Addr) (v : Byte) : (s.write8 a v).x = s.x := rfl
@[simp] theorem write8_y (s : State) (a : Addr) (v : Byte) : (s.write8 a v).y = s.y := rfl
@[simp] theorem write8_sp (s : State) (a : Addr) (v : Byte) : (s.write8 a v).sp = s.sp := rfl
@[simp] theorem write8_p (s : State) (a : Addr) (v : Byte) : (s.write8 a v).p = s.p := rfl
@[simp] theorem write8_mem (s : State) (a : Addr) (v : Byte) :
    (s.write8 a v).mem = s.mem.write8 a v := rfl
@[simp] theorem write8_fault (s : State) (a : Addr) (v : Byte) :
    (s.write8 a v).fault = s.fault := rfl
@[simp] theorem write8_cfg (s : State) (a : Addr) (v : Byte) : (s.write8 a v).cfg = s.cfg := rfl

/-! ### setZN -/

@[simp] theorem setZN_pc (s : State) (r : Byte) : (s.setZN r).pc = s.pc := rfl
@[simp] theorem setZN_a (s : State) (r : Byte) : (s.setZN r).a = s.a := rfl
@[simp] theorem setZN_x (s : State) (r : Byte) : (s.setZN r).x = s.x := rfl
@[simp] theorem setZN_y (s : State) (r : Byte) : (s.setZN r).y = s.y := rfl
@[simp] theorem setZN_sp (s : State) (r : Byte) : (s.setZN r).sp = s.sp := rfl
@[simp] theorem setZN_p (s : State) (r : Byte) : (s.setZN r).p = s.p.zn r := rfl
@[simp] theorem setZN_mem (s : State) (r : Byte) : (s.setZN r).mem = s.mem := rfl
@[simp] theorem setZN_fault (s : State) (r : Byte) : (s.setZN r).fault = s.fault := rfl
@[simp] theorem setZN_cfg (s : State) (r : Byte) : (s.setZN r).cfg = s.cfg := rfl

/-! ### push -/

@[simp] theorem push_pc (s : State) (v : Byte) : (s.push v).pc = s.pc := rfl
@[simp] theorem push_a (s : State) (v : Byte) : (s.push v).a = s.a := rfl
@[simp] theorem push_x (s : State) (v : Byte) : (s.push v).x = s.x := rfl
@[simp] theorem push_y (s : State) (v : Byte) : (s.push v).y = s.y := rfl
@[simp] theorem push_sp (s : State) (v : Byte) : (s.push v).sp = s.sp - 1 := rfl
@[simp] theorem push_p (s : State) (v : Byte) : (s.push v).p = s.p := rfl
@[simp] theorem push_mem (s : State) (v : Byte) :
    (s.push v).mem = s.mem.write8 (stackAddr s.sp) v := rfl
@[simp] theorem push_fault (s : State) (v : Byte) : (s.push v).fault = s.fault := rfl
@[simp] theorem push_cfg (s : State) (v : Byte) : (s.push v).cfg = s.cfg := rfl

/-! ### pull -/

@[simp] theorem pull_pc (s : State) : s.pull.2.pc = s.pc := rfl
@[simp] theorem pull_a (s : State) : s.pull.2.a = s.a := rfl
@[simp] theorem pull_x (s : State) : s.pull.2.x = s.x := rfl
@[simp] theorem pull_y (s : State) : s.pull.2.y = s.y := rfl
@[simp] theorem pull_sp (s : State) : s.pull.2.sp = s.sp + 1 := rfl
@[simp] theorem pull_p (s : State) : s.pull.2.p = s.p := rfl
@[simp] theorem pull_mem (s : State) : s.pull.2.mem = s.mem := rfl
@[simp] theorem pull_fault (s : State) : s.pull.2.fault = s.fault := rfl
@[simp] theorem pull_cfg (s : State) : s.pull.2.cfg = s.cfg := rfl

/-! ### push16 -/

@[simp] theorem push16_pc (s : State) (w : Addr) : (s.push16 w).pc = s.pc := rfl
@[simp] theorem push16_a (s : State) (w : Addr) : (s.push16 w).a = s.a := rfl
@[simp] theorem push16_x (s : State) (w : Addr) : (s.push16 w).x = s.x := rfl
@[simp] theorem push16_y (s : State) (w : Addr) : (s.push16 w).y = s.y := rfl
@[simp] theorem push16_sp (s : State) (w : Addr) : (s.push16 w).sp = s.sp - 1 - 1 := rfl
@[simp] theorem push16_p (s : State) (w : Addr) : (s.push16 w).p = s.p := rfl
@[simp] theorem push16_mem (s : State) (w : Addr) :
    (s.push16 w).mem = (s.mem.write8 (stackAddr s.sp) (highByte w)).write8 (stackAddr (s.sp - 1)) (lowByte w) := rfl
@[simp] theorem push16_fault (s : State) (w : Addr) : (s.push16 w).fault = s.fault := rfl
@[simp] theorem push16_cfg (s : State) (w : Addr) : (s.push16 w).cfg = s.cfg := rfl

/-! ### pull16 -/

@[simp] theorem pull16_pc (s : State) : s.pull16.2.pc = s.pc := rfl
@[simp] theorem pull16_a (s : State) : s.pull16.2.a = s.a := rfl
@[simp] theorem pull16_x (s : State) : s.pull16.2.x = s.x := rfl
@[simp] theorem pull16_y (s : State) : s.pull16.2.y = s.y := rfl
@[simp] theorem pull16_sp (s : State) : s.pull16.2.sp = s.sp + 1 + 1 := rfl
@[simp] theorem pull16_p (s : State) : s.pull16.2.p = s.p := rfl
@[simp] theorem pull16_mem (s : State) : s.pull16.2.mem = s.mem := rfl
@[simp] theorem pull16_fault (s : State) : s.pull16.2.fault = s.fault := rfl
@[simp] theorem pull16_cfg (s : State) : s.pull16.2.cfg = s.cfg := rfl

/-! ### latchInvalidOpcode -/

@[simp] theorem latchInvalidOpcode_pc (s : State) (op : Byte) :
    (s.latchInvalidOpcode op).pc = s.pc := rfl
@[simp] theorem latchInvalidOpcode_a (s : State) (op : Byte) :
    (s.latchInvalidOpcode op).a = s.a := rfl
@[simp] theorem latchInvalidOpcode_x (s : State) (op : Byte) :
    (s.latchInvalidOpcode op).x = s.x := rfl
@[simp] theorem latchInvalidOpcode_y (s : State) (op : Byte) :
    (s.latchInvalidOpcode op).y = s.y := rfl
@[simp] theorem latchInvalidOpcode_sp (s : State) (op : Byte) :
    (s.latchInvalidOpcode op).sp = s.sp := rfl
@[simp] theorem latchInvalidOpcode_p (s : State) (op : Byte) :
    (s.latchInvalidOpcode op).p = s.p := rfl
@[simp] theorem latchInvalidOpcode_mem (s : State) (op : Byte) :
    (s.latchInvalidOpcode op).mem = s.mem := rfl
@[simp] theorem latchInvalidOpcode_fault (s : State) (op : Byte) :
    (s.latchInvalidOpcode op).fault = some (.invalidOpcode op s.pc) := rfl
@[simp] theorem latchInvalidOpcode_cfg (s : State) (op : Byte) :
    (s.latchInvalidOpcode op).cfg = s.cfg := rfl

/-! ### resetWith -/

@[simp] theorem resetWith_pc (s : State) (r : Draws) :
    (s.resetWith r).pc = s.read16 resetVector := rfl
@[simp] theorem resetWith_a (s : State) (r : Draws) : (s.resetWith r).a = r.a := rfl
@[simp] theorem resetWith_x (s : State) (r : Draws) : (s.resetWith r).x = r.x := rfl
@[simp] theorem resetWith_y (s : State) (r : Draws) : (s.resetWith r).y = r.y := rfl
@[simp] theorem resetWith_sp (s : State) (r : Draws) : (s.resetWith r).sp = r.sp := rfl
@[simp] theorem resetWith_p (s : State) (r : Draws) :
    (s.resetWith r).p = ⟨r.c, r.z, true, r.d, r.v, r.n⟩ := rfl
@[simp] theorem resetWith_mem (s : State) (r : Draws) : (s.resetWith r).mem = s.mem := rfl
@[simp] theorem resetWith_fault (s : State) (r : Draws) : (s.resetWith r).fault = none := rfl
@[simp] theorem resetWith_cfg (s : State) (r : Draws) : (s.resetWith r).cfg = s.cfg := rfl

/-! ### storeMem -/

@[simp] theorem storeMem_pc (m : MemMode) (v : Byte) (s : State) : (storeMem m v s).pc = s.pc := rfl
@[simp] theorem storeMem_a (m : MemMode) (v : Byte) (s : State) : (storeMem m v s).a = s.a := rfl
@[simp] theorem storeMem_x (m : MemMode) (v : Byte) (s : State) : (storeMem m v s).x = s.x := rfl
@[simp] theorem storeMem_y (m : MemMode) (v : Byte) (s : State) : (storeMem m v s).y = s.y := rfl
@[simp] theorem storeMem_sp (m : MemMode) (v : Byte) (s : State) : (storeMem m v s).sp = s.sp := rfl
@[simp] theorem storeMem_p (m : MemMode) (v : Byte) (s : State) : (storeMem m v s).p = s.p := rfl
@[simp] theorem storeMem_mem (m : MemMode) (v : Byte) (s : State) :
    (storeMem m v s).mem = s.mem.write8 (effAddr m s) v := rfl
@[simp] theorem storeMem_fault (m : MemMode) (v : Byte) (s : State) :
    (storeMem m v s).fault = s.fault := rfl
@[simp] theorem storeMem_cfg (m : MemMode) (v : Byte) (s : State) :
    (storeMem m v s).cfg = s.cfg := rfl

/-! ### setA -/

@[simp] theorem setA_pc (r : Byte) (s : State) : (setA r s).pc = s.pc := rfl
@[simp] theorem setA_a (r : Byte) (s : State) : (setA r s).a = r := rfl
@[simp] theorem setA_x (r : Byte) (s : State) : (setA r s).x = s.x := rfl
@[simp] theorem setA_y (r : Byte) (s : State) : (setA r s).y = s.y := rfl
@[simp] theorem setA_sp (r : Byte) (s : State) : (setA r s).sp = s.sp := rfl
@[simp] theorem setA_p (r : Byte) (s : State) : (setA r s).p = s.p.zn r := rfl
@[simp] theorem setA_mem (r : Byte) (s : State) : (setA r s).mem = s.mem := rfl
@[simp] theorem setA_fault (r : Byte) (s : State) : (setA r s).fault = s.fault := rfl
@[simp] theorem setA_cfg (r : Byte) (s : State) : (setA r s).cfg = s.cfg := rfl

/-! ### setX -/

@[simp] theorem setX_pc (r : Byte) (s : State) : (setX r s).pc = s.pc := rfl
@[simp] theorem setX_a (r : Byte) (s : State) : (setX r s).a = s.a := rfl
@[simp] theorem setX_x (r : Byte) (s : State) : (setX r s).x = r := rfl
@[simp] theorem setX_y (r : Byte) (s : State) : (setX r s).y = s.y := rfl
@[simp] theorem setX_sp (r : Byte) (s : State) : (setX r s).sp = s.sp := rfl
@[simp] theorem setX_p (r : Byte) (s : State) : (setX r s).p = s.p.zn r := rfl
@[simp] theorem setX_mem (r : Byte) (s : State) : (setX r s).mem = s.mem := rfl
@[simp] theorem setX_fault (r : Byte) (s : State) : (setX r s).fault = s.fault := rfl
@[simp] theorem setX_cfg (r : Byte) (s : State) : (setX r s).cfg = s.cfg := rfl

/-! ### setY -/

@[simp] theorem setY_pc (r : Byte) (s : State) : (setY r s).pc = s.pc := rfl
@[simp] theorem setY_a (r : Byte) (s : State) : (setY r s).a = s.a := rfl
@[simp] theorem setY_x (r : Byte) (s : State) : (setY r s).x = s.x := rfl
@[simp] theorem setY_y (r : Byte) (s : State) : (setY r s).y = r := rfl
@[simp] theorem setY_sp (r : Byte) (s : State) : (setY r s).sp = s.sp := rfl
@[simp] theorem setY_p (r : Byte) (s : State) : (setY r s).p = s.p.zn r := rfl
@[simp] theorem setY_mem (r : Byte) (s : State) : (setY r s).mem = s.mem := rfl
@[simp] theorem setY_fault (r : Byte) (s : State) : (setY r s).fault = s.fault := rfl
@[simp] theorem setY_cfg (r : Byte) (s : State) : (setY r s).cfg = s.cfg := rfl

/-! ### compareWith -/

@[simp] theorem compareWith_pc (reg m : Byte) (s : State) : (compareWith reg m s).pc = s.pc := rfl
@[simp] theorem compareWith_a (reg m : Byte) (s : State) : (compareWith reg m s).a = s.a := rfl
@[simp] theorem compareWith_x (reg m : Byte) (s : State) : (compareWith reg m s).x = s.x := rfl
@[simp] theorem compareWith_y (reg m : Byte) (s : State) : (compareWith reg m s).y = s.y := rfl
@[simp] theorem compareWith_sp (reg m : Byte) (s : State) : (compareWith reg m s).sp = s.sp := rfl
@[simp] theorem compareWith_p (reg m : Byte) (s : State) :
    (compareWith reg m s).p = s.p.cmp reg m := rfl
@[simp] theorem compareWith_mem (reg m : Byte) (s : State) :
    (compareWith reg m s).mem = s.mem := rfl
@[simp] theorem compareWith_fault (reg m : Byte) (s : State) :
    (compareWith reg m s).fault = s.fault := rfl
@[simp] theorem compareWith_cfg (reg m : Byte) (s : State) :
    (compareWith reg m s).cfg = s.cfg := rfl

/-! ### trap entry and return -/

@[simp] theorem enterTrap_a (s : State) (ret : Addr) : (s.enterTrap ret).a = s.a := rfl
@[simp] theorem enterTrap_x (s : State) (ret : Addr) : (s.enterTrap ret).x = s.x := rfl
@[simp] theorem enterTrap_y (s : State) (ret : Addr) : (s.enterTrap ret).y = s.y := rfl
@[simp] theorem enterTrap_fault (s : State) (ret : Addr) : (s.enterTrap ret).fault = s.fault := rfl
@[simp] theorem enterTrap_cfg (s : State) (ret : Addr) : (s.enterTrap ret).cfg = s.cfg := rfl
@[simp] theorem enterTrap_sp (s : State) (ret : Addr) : (s.enterTrap ret).sp = s.sp - 1 - 1 - 1 := rfl
@[simp] theorem enterTrap_p (s : State) (ret : Addr) : (s.enterTrap ret).p = { s.p with i := true } := rfl
@[simp] theorem enterTrap_mem (s : State) (ret : Addr) :
    (s.enterTrap ret).mem = ((s.push16 ret).push (s.p.image true)).mem := rfl
@[simp] theorem enterTrap_pc (s : State) (ret : Addr) :
    (s.enterTrap ret).pc = (s.enterTrap ret).mem.read16 brkVector := rfl
@[simp] theorem returnFromTrap_a (s : State) : s.returnFromTrap.a = s.a := rfl
@[simp] theorem returnFromTrap_x (s : State) : s.returnFromTrap.x = s.x := rfl
@[simp] theorem returnFromTrap_y (s : State) : s.returnFromTrap.y = s.y := rfl
@[simp] theorem returnFromTrap_mem (s : State) : s.returnFromTrap.mem = s.mem := rfl
@[simp] theorem returnFromTrap_fault (s : State) : s.returnFromTrap.fault = s.fault := rfl
@[simp] theorem returnFromTrap_cfg (s : State) : s.returnFromTrap.cfg = s.cfg := rfl
@[simp] theorem returnFromTrap_sp (s : State) : s.returnFromTrap.sp = s.sp + 1 + 1 + 1 := rfl
@[simp] theorem returnFromTrap_p (s : State) : s.returnFromTrap.p = Flags.ofImage s.pull.1 := rfl
@[simp] theorem returnFromTrap_pc (s : State) : s.returnFromTrap.pc = s.pull.2.pull16.1 := rfl

/-! ### addition into A -/

@[simp] theorem addToA_pc (m : Byte) (s : State) : (addToA m s).pc = s.pc := rfl
@[simp] theorem addToA_x (m : Byte) (s : State) : (addToA m s).x = s.x := rfl
@[simp] theorem addToA_y (m : Byte) (s : State) : (addToA m s).y = s.y := rfl
@[simp] theorem addToA_sp (m : Byte) (s : State) : (addToA m s).sp = s.sp := rfl
@[simp] theorem addToA_mem (m : Byte) (s : State) : (addToA m s).mem = s.mem := rfl
@[simp] theorem addToA_fault (m : Byte) (s : State) : (addToA m s).fault = s.fault := rfl
@[simp] theorem addToA_cfg (m : Byte) (s : State) : (addToA m s).cfg = s.cfg := rfl
@[simp] theorem addToA_a (m : Byte) (s : State) : (addToA m s).a = (add8 s.a m s.p.c).1 := rfl
@[simp] theorem addToA_p (m : Byte) (s : State) :
    (addToA m s).p = { s.p with
      c := (add8 s.a m s.p.c).2, v := ovf s.a m (add8 s.a m s.p.c).1,
      z := (add8 s.a m s.p.c).1 == 0, n := bitAt (add8 s.a m s.p.c).1 7 } := rfl

/-! ### a shift's result stored -/

@[simp] theorem storeRmw_pc (o : RmwOpnd) (v : Byte) (s : State) : (storeRmw o v s).pc = s.pc := by
  cases o <;> rfl
@[simp] theorem storeRmw_x (o : RmwOpnd) (v : Byte) (s : State) : (storeRmw o v s).x = s.x := by
  cases o <;> rfl
@[simp] theorem storeRmw_y (o : RmwOpnd) (v : Byte) (s : State) : (storeRmw o v s).y = s.y := by
  cases o <;> rfl
@[simp] theorem storeRmw_sp (o : RmwOpnd) (v : Byte) (s : State) : (storeRmw o v s).sp = s.sp := by
  cases o <;> rfl
@[simp] theorem storeRmw_fault (o : RmwOpnd) (v : Byte) (s : State) : (storeRmw o v s).fault = s.fault := by
  cases o <;> rfl
@[simp] theorem storeRmw_cfg (o : RmwOpnd) (v : Byte) (s : State) : (storeRmw o v s).cfg = s.cfg := by
  cases o <;> rfl
@[simp] theorem storeRmw_p (o : RmwOpnd) (v : Byte) (s : State) : (storeRmw o v s).p = s.p := by
  cases o <;> rfl
@[simp] theorem storeRmw_acc_a (v : Byte) (s : State) : (storeRmw .acc v s).a = v := rfl
@[simp] theorem storeRmw_acc_mem (v : Byte) (s : State) : (storeRmw .acc v s).mem = s.mem := rfl
@[simp] theorem storeRmw_mem_a (m : MemMode) (v : Byte) (s : State) : (storeRmw (.mem m) v s).a = s.a := rfl
@[simp] theorem storeRmw_mem_mem (m : MemMode) (v : Byte) (s : State) :
    (storeRmw (.mem m) v s).mem = s.mem.write8 (effAddr m s) v := rfl
@[simp] theorem storeShift_pc (o : RmwOpnd) (r : ShiftResult) (s : State) :
    (storeShift o r s).pc = s.pc := by
  cases o <;> rfl
@[simp] theorem storeShift_x (o : RmwOpnd) (r : ShiftResult) (s : State) :
    (storeShift o r s).x = s.x := by
  cases o <;> rfl
@[simp] theorem storeShift_y (o : RmwOpnd) (r : ShiftResult) (s : State) :
    (storeShift o r s).y = s.y := by
  cases o <;> rfl
@[simp] theorem storeShift_sp (o : RmwOpnd) (r : ShiftResult) (s : State) :
    (storeShift o r s).sp = s.sp := by
  cases o <;> rfl
@[simp] theorem storeShift_fault (o : RmwOpnd) (r : ShiftResult) (s : State) :
    (storeShift o r s).fault = s.fault := by
  cases o <;> rfl
@[simp] theorem storeShift_cfg (o : RmwOpnd) (r : ShiftResult) (s : State) :
    (storeShift o r s).cfg = s.cfg := by
  cases o <;> rfl
@[simp] theorem storeShift_a (o : RmwOpnd) (r : ShiftResult) (s : State) :
    (storeShift o r s).a = (storeRmw o r.1 s).a := rfl
@[simp] theorem storeShift_mem (o : RmwOpnd) (r : ShiftResult) (s : State) :
    (storeShift o r s).mem = (storeRmw o r.1 s).mem := rfl
@[simp] theorem storeShift_p (o : RmwOpnd) (r : ShiftResult) (s : State) :
    (storeShift o r s).p = { s.p with c := r.2, z := r.1 == 0, n := bitAt r.1 7 } := by
  cases o <;> rfl

/-! ### a branch -/

@[simp] theorem branchIf_a (g e : Bool) (d : Byte) (s : State) : (branchIf g e d s).a = s.a := by
  unfold branchIf; split <;> rfl
@[simp] theorem branchIf_x (g e : Bool) (d : Byte) (s : State) : (branchIf g e d s).x = s.x := by
  unfold branchIf; split <;> rfl
@[simp] theorem branchIf_y (g e : Bool) (d : Byte) (s : State) : (branchIf g e d s).y = s.y := by
  unfold branchIf; split <;> rfl
@[simp] theorem branchIf_sp (g e : Bool) (d : Byte) (s : State) : (branchIf g e d s).sp = s.sp := by
  unfold branchIf; split <;> rfl
@[simp] theorem branchIf_p (g e : Bool) (d : Byte) (s : State) : (branchIf g e d s).p = s.p := by
  unfold branchIf; split <;> rfl
@[simp] theorem branchIf_mem (g e : Bool) (d : Byte) (s : State) : (branchIf g e d s).mem = s.mem := by
  unfold branchIf; split <;> rfl
@[simp] theorem branchIf_fault (g e : Bool) (d : Byte) (s : State) : (branchIf g e d s).fault = s.fault := by
  unfold branchIf; split <;> rfl
@[simp] theorem branchIf_cfg (g e : Bool) (d : Byte) (s : State) : (branchIf g e d s).cfg = s.cfg := by
  unfold branchIf; split <;> rfl
theorem branchIf_pc (g e : Bool) (d : Byte) (s : State) :
    (branchIf g e d s).pc = if g = e then s.pc + sext16 d else s.pc := by
  unfold branchIf; split <;> rfl

/-! ### the prologue -/

@[simp] theorem prologue_a (i : Instr) (s : State) : (prologue i s).a = s.a := by
  unfold prologue; split <;> rfl
@[simp] theorem prologue_x (i : Instr) (s : State) : (prologue i s).x = s.x := by
  unfold prologue; split <;> rfl
@[simp] theorem prologue_y (i : Instr) (s : State) : (prologue i s).y = s.y := by
  unfold prologue; split <;> rfl
@[simp] theorem prologue_sp (i : Instr) (s : State) : (prologue i s).sp = s.sp := by
  unfold prologue; split <;> rfl
@[simp] theorem prologue_p (i : Instr) (s : State) : (prologue i s).p = s.p := by
  unfold prologue; split <;> rfl
@[simp] theorem prologue_mem (i : Instr) (s : State) : (prologue i s).mem = s.mem := by
  unfold prologue; split <;> rfl
@[simp] theorem prologue_fault (i : Instr) (s : State) : (prologue i s).fault = s.fault := by
  unfold prologue; split <;> rfl
@[simp] theorem prologue_cfg (i : Instr) (s : State) : (prologue i s).cfg = s.cfg := by
  unfold prologue; split <;> rfl
theorem prologue_invalid (op : Byte) (s : State) : prologue (.invalid op) s = s := rfl
theorem prologue_valid (i : Instr) (s : State) (h : i.kind ≠ .invalid) :
    prologue i s = { s with pc := s.pc + BitVec.ofNat 16 i.size } := by
  simp [prologue, h]

/-! ### reads -/

@[simp] theorem pull_fst (s : State) : s.pull.1 = s.read8 (stackAddr (s.sp + 1)) := rfl
@[simp] theorem pull16_fst (s : State) :
    s.pull16.1 = word (s.read8 (stackAddr (s.sp + 1 + 1))) (s.read8 (stackAddr (s.sp + 1))) := rfl
theorem state_read8 (s : State) (a : Addr) : s.read8 a = s.mem.read8 a := rfl
theorem state_read16 (s : State) (a : Addr) : s.read16 a = word (s.read8 (a + 1)) (s.read8 a) := rfl

/-! ### flags -/

@[simp] theorem zn_c (f : Flags) (r : Byte) : (f.zn r).c = f.c := rfl
@[simp] theorem zn_z (f : Flags) (r : Byte) : (f.zn r).z = (r == 0) := rfl
@[simp] theorem zn_i (f : Flags) (r : Byte) : (f.zn r).i = f.i := rfl
@[simp] theorem zn_d (f : Flags) (r : Byte) : (f.zn r).d = f.d := rfl
@[simp] theorem zn_v (f : Flags) (r : Byte) : (f.zn r).v = f.v := rfl
@[simp] theorem zn_n (f : Flags) (r : Byte) : (f.zn r).n = bitAt r 7 := rfl
@[simp] theorem cmp_c (f : Flags) (r m : Byte) : (f.cmp r m).c = (add8 r (~~~m) true).2 := rfl
@[simp] theorem cmp_z (f : Flags) (r m : Byte) : (f.cmp r m).z = ((add8 r (~~~m) true).1 == 0) := rfl
@[simp] theorem cmp_i (f : Flags) (r m : Byte) : (f.cmp r m).i = f.i := rfl
@[simp] theorem cmp_d (f : Flags) (r m : Byte) : (f.cmp r m).d = f.d := rfl
@[simp] theorem cmp_v (f : Flags) (r m : Byte) : (f.cmp r m).v = f.v := rfl
@[simp] theorem cmp_n (f : Flags) (r m : Byte) : (f.cmp r m).n = bitAt (add8 r (~~~m) true).1 7 := rfl

end Sys2Proof.Machine
end

