-- ==== Sys2Proof/Laws/Exec.lean ====
section
/-! SUPPORT. What `exec` answers for each instruction, over the shared operations: cite these instead of
unfolding `exec` and the meanings. -/

namespace Sys2Proof.Machine

@[simp] theorem exec_adc (o : Src) (s : State) :
    exec (.adc o) s = .next (addToA (loadSrc o s) s) := rfl
@[simp] theorem exec_sbc (o : Src) (s : State) :
    exec (.sbc o) s = .next (addToA (~~~(loadSrc o s)) s) := rfl
@[simp] theorem exec_cmp (o : Src) (s : State) :
    exec (.cmp o) s = .next (compareWith s.a (loadSrc o s) s) := rfl
@[simp] theorem exec_cpx (o : Src) (s : State) :
    exec (.cpx o) s = .next (compareWith s.x (loadSrc o s) s) := rfl
@[simp] theorem exec_cpy (o : Src) (s : State) :
    exec (.cpy o) s = .next (compareWith s.y (loadSrc o s) s) := rfl
@[simp] theorem exec_and (o : Src) (s : State) :
    exec (.and o) s = .next (setA (s.a &&& loadSrc o s) s) := rfl
@[simp] theorem exec_ora (o : Src) (s : State) :
    exec (.ora o) s = .next (setA (s.a ||| loadSrc o s) s) := rfl
@[simp] theorem exec_eor (o : Src) (s : State) :
    exec (.eor o) s = .next (setA (s.a ^^^ loadSrc o s) s) := rfl
@[simp] theorem exec_bit (m : MemMode) (s : State) :
    exec (.bit m) s = .next { s with p := { s.p with z := s.a &&& (loadMem m s) == 0, n := bitAt (loadMem m s) 7, v := bitAt (loadMem m s) 6 } } := rfl
@[simp] theorem exec_asl (o : RmwOpnd) (s : State) :
    exec (.asl o) s = .next (storeShift o (shiftAsl (loadRmw o s)) s) := rfl
@[simp] theorem exec_lsr (o : RmwOpnd) (s : State) :
    exec (.lsr o) s = .next (storeShift o (shiftLsr (loadRmw o s)) s) := rfl
@[simp] theorem exec_rol (o : RmwOpnd) (s : State) :
    exec (.rol o) s = .next (storeShift o (shiftRol (loadRmw o s) s.p.c) s) := rfl
@[simp] theorem exec_ror (o : RmwOpnd) (s : State) :
    exec (.ror o) s = .next (storeShift o (shiftRor (loadRmw o s) s.p.c) s) := rfl
@[simp] theorem exec_inc (m : MemMode) (s : State) :
    exec (.inc m) s = .next ((storeMem m (loadMem m s + 1) s).setZN (loadMem m s + 1)) := rfl
@[simp] theorem exec_dec (m : MemMode) (s : State) :
    exec (.dec m) s = .next ((storeMem m (loadMem m s - 1) s).setZN (loadMem m s - 1)) := rfl
@[simp] theorem exec_inx (s : State) :
    exec .inx s = .next (setX (s.x + 1) s) := rfl
@[simp] theorem exec_iny (s : State) :
    exec .iny s = .next (setY (s.y + 1) s) := rfl
@[simp] theorem exec_dex (s : State) :
    exec .dex s = .next (setX (s.x - 1) s) := rfl
@[simp] theorem exec_dey (s : State) :
    exec .dey s = .next (setY (s.y - 1) s) := rfl
@[simp] theorem exec_lda (o : Src) (s : State) :
    exec (.lda o) s = .next (setA (loadSrc o s) s) := rfl
@[simp] theorem exec_ldx (o : Src) (s : State) :
    exec (.ldx o) s = .next (setX (loadSrc o s) s) := rfl
@[simp] theorem exec_ldy (o : Src) (s : State) :
    exec (.ldy o) s = .next (setY (loadSrc o s) s) := rfl
@[simp] theorem exec_sta (m : MemMode) (s : State) :
    exec (.sta m) s = .next (storeMem m s.a s) := rfl
@[simp] theorem exec_stx (m : MemMode) (s : State) :
    exec (.stx m) s = .next (storeMem m s.x s) := rfl
@[simp] theorem exec_sty (m : MemMode) (s : State) :
    exec (.sty m) s = .next (storeMem m s.y s) := rfl
@[simp] theorem exec_tax (s : State) :
    exec .tax s = .next (setX s.a s) := rfl
@[simp] theorem exec_tay (s : State) :
    exec .tay s = .next (setY s.a s) := rfl
@[simp] theorem exec_txa (s : State) :
    exec .txa s = .next (setA s.x s) := rfl
@[simp] theorem exec_tya (s : State) :
    exec .tya s = .next (setA s.y s) := rfl
@[simp] theorem exec_tsx (s : State) :
    exec .tsx s = .next (setX s.sp s) := rfl
@[simp] theorem exec_txs (s : State) :
    exec .txs s = .next { s with sp := s.x } := rfl
@[simp] theorem exec_bcc (d : Byte) (s : State) :
    exec (.bcc d) s = .next (branchIf s.p.c false d s) := rfl
@[simp] theorem exec_bcs (d : Byte) (s : State) :
    exec (.bcs d) s = .next (branchIf s.p.c true d s) := rfl
@[simp] theorem exec_beq (d : Byte) (s : State) :
    exec (.beq d) s = .next (branchIf s.p.z true d s) := rfl
@[simp] theorem exec_bne (d : Byte) (s : State) :
    exec (.bne d) s = .next (branchIf s.p.z false d s) := rfl
@[simp] theorem exec_bmi (d : Byte) (s : State) :
    exec (.bmi d) s = .next (branchIf s.p.n true d s) := rfl
@[simp] theorem exec_bpl (d : Byte) (s : State) :
    exec (.bpl d) s = .next (branchIf s.p.n false d s) := rfl
@[simp] theorem exec_bvc (d : Byte) (s : State) :
    exec (.bvc d) s = .next (branchIf s.p.v false d s) := rfl
@[simp] theorem exec_bvs (d : Byte) (s : State) :
    exec (.bvs d) s = .next (branchIf s.p.v true d s) := rfl
@[simp] theorem exec_pha (s : State) :
    exec .pha s = .next (s.push s.a) := rfl
@[simp] theorem exec_php (s : State) :
    exec .php s = .next (s.push (s.p.image true)) := rfl
@[simp] theorem exec_pla (s : State) :
    exec .pla s = .next (setA (s.pull).1 (s.pull).2) := rfl
@[simp] theorem exec_plp (s : State) :
    exec .plp s = .next { (s.pull).2 with p := Flags.ofImage (s.pull).1 } := rfl
@[simp] theorem exec_jsr (w : Addr) (s : State) :
    exec (.jsr w) s = .next { s.push16 (s.pc - 1) with pc := w } := rfl
@[simp] theorem exec_rts (s : State) :
    exec .rts s = .next { (s.pull16).2 with pc := (s.pull16).1 + 1 } := rfl
@[simp] theorem exec_jmp (t : JumpOpnd) (s : State) :
    exec (.jmp t) s = .next { s with pc := jumpTarget t s } := rfl
@[simp] theorem exec_brk (pad : Byte) (s : State) :
    exec (.brk pad) s = .next (s.enterTrap (brkReturnAddr s)) := rfl
@[simp] theorem exec_rti (s : State) :
    exec .rti s = .next s.returnFromTrap := rfl
@[simp] theorem exec_sec (s : State) :
    exec .sec s = .next { s with p := { s.p with c := true } } := rfl
@[simp] theorem exec_sei (s : State) :
    exec .sei s = .next { s with p := { s.p with i := true } } := rfl
@[simp] theorem exec_sed (s : State) :
    exec .sed s = .next { s with p := { s.p with d := true } } := rfl
@[simp] theorem exec_clc (s : State) :
    exec .clc s = .next { s with p := { s.p with c := false } } := rfl
@[simp] theorem exec_cli (s : State) :
    exec .cli s = .next { s with p := { s.p with i := false } } := rfl
@[simp] theorem exec_cld (s : State) :
    exec .cld s = .next { s with p := { s.p with d := false } } := rfl
@[simp] theorem exec_clv (s : State) :
    exec .clv s = .next { s with p := { s.p with v := false } } := rfl
@[simp] theorem exec_nop (s : State) :
    exec .nop s = .next s := rfl
@[simp] theorem exec_invalid (op : Byte) (s : State) :
    exec (.invalid op) s = .next (s.latchInvalidOpcode op) := rfl

/-- Every instruction answers a next state. -/
theorem exec_answers_next (i : Instr) (s : State) : ∃ t, exec i s = .next t := by
  cases i <;> exact ⟨_, rfl⟩

end Sys2Proof.Machine
end

