-- ==== Sys2Proof/Laws/Memory.lean ====
section
/-! SUPPORT. The laws of memory: read after write, what a write leaves alone, and the canonical form. -/

namespace Sys2Proof.Memory

theorem startsAbove_mono {m : Memory} {j k : Nat} (hjk : j ≤ k) (h : startsAbove k m = true) :
    startsAbove j m = true := by
  cases m with
  | nil => rfl
  | cons c m => simp only [startsAbove, decide_eq_true_eq] at h ⊢; omega

/-- A cell below every listed one is not listed. -/
theorem get_of_startsAbove {m : Memory} {n : Nat} (h : startsAbove n m = true) :
    m.get n = unwrittenByte := by
  cases m with
  | nil => rfl
  | cons c m =>
    obtain ⟨k, v⟩ := c
    simp only [startsAbove, decide_eq_true_eq] at h
    simp [get, show ¬ k < n by omega, show ¬ k = n by omega]

/-- Cells above `n` read the same when the listed cells up to `n` are dropped. -/
theorem get_dropWhile (m : Memory) {n j : Nat} (h : n < j) :
    Memory.get (m.dropWhile (fun c => c.1 ≤ n)) j = m.get j := by
  induction m with
  | nil => rfl
  | cons c m ih =>
    obtain ⟨k, v⟩ := c
    by_cases hk : k ≤ n
    · simp only [List.dropWhile_cons, hk, decide_true, if_true, ih, get, show k < j by omega]
    · simp [hk]

theorem startsAbove_dropWhile (m : Memory) (n : Nat) :
    startsAbove n (m.dropWhile (fun c => c.1 ≤ n)) = true := by
  induction m with
  | nil => rfl
  | cons c m ih =>
    obtain ⟨k, v⟩ := c
    by_cases hk : k ≤ n
    · simp only [List.dropWhile_cons, hk, decide_true, if_true, ih]
    · simp only [List.dropWhile_cons, hk, decide_false, Bool.false_eq_true, if_false, startsAbove,
        decide_eq_true_eq]
      omega

/-! ### The three cases of a write into a listed memory -/

theorem set_below {k n : Nat} (h : k < n) (v b : Byte) (m : Memory) :
    set ((k, v) :: m) n b = (k, v) :: m.set n b := by
  simp [set, h]

theorem set_at (n : Nat) (v b : Byte) (m : Memory) :
    set ((n, v) :: m) n b =
      if b = unwrittenByte then m.dropWhile (fun c => c.1 ≤ n)
      else (n, b) :: m.dropWhile (fun c => c.1 ≤ n) := by
  simp [set]

theorem set_above {k n : Nat} (h : n < k) (v b : Byte) (m : Memory) :
    set ((k, v) :: m) n b = if b = unwrittenByte then (k, v) :: m else (n, b) :: (k, v) :: m := by
  simp [set, show ¬ k < n by omega, show k ≠ n by omega]

theorem get_cons (k j : Nat) (v : Byte) (m : Memory) :
    get ((k, v) :: m) j = if k < j then m.get j else if k = j then v else unwrittenByte := rfl

/-- What every cell reads as after a write, of any memory. -/
theorem get_set (m : Memory) (n j : Nat) (b : Byte) :
    (m.set n b).get j = if j = n then b else m.get j := by
  induction m with
  | nil =>
    by_cases hb : b = unwrittenByte
    · simp [set, get, hb]
    · simp only [set, hb, if_false, get_cons, get]
      grind
  | cons c m ih =>
    obtain ⟨k, v⟩ := c
    rcases Nat.lt_trichotomy k n with h | h | h
    · simp only [set_below h, get_cons, ih]
      grind
    · subst h
      have hdrop : Memory.get (m.dropWhile (fun c => c.1 ≤ k)) j =
          if k < j then Memory.get m j else unwrittenByte := by
        split
        · next hj => exact get_dropWhile m hj
        · exact get_of_startsAbove (startsAbove_mono (by omega) (startsAbove_dropWhile m k))
      simp only [set_at, get_cons]
      split <;> simp only [get_cons, hdrop] <;> grind
    · simp only [set_above h, get_cons]
      split <;> simp only [get_cons] <;> grind

theorem wf_cons {k : Nat} {v : Byte} {m : Memory} :
    wf ((k, v) :: m) = true ↔
      isCell k = true ∧ v ≠ unwrittenByte ∧ startsAbove k m = true ∧ wf m = true := by
  simp [wf, and_assoc]

/-- In a canonical memory nothing is dropped: every key after the first is above it. -/
theorem dropWhile_of_startsAbove {m : Memory} {n : Nat} (h : startsAbove n m = true) :
    m.dropWhile (fun c => c.1 ≤ n) = m := by
  cases m with
  | nil => rfl
  | cons c m =>
    simp only [startsAbove, decide_eq_true_eq] at h
    simp [show ¬ c.1 ≤ n by omega]

theorem startsAbove_set {m : Memory} {j n : Nat} (b : Byte) (hj : j < n) (h : startsAbove j m = true)
    (hm : wf m = true) : startsAbove j (m.set n b) = true := by
  cases m with
  | nil =>
    simp only [set]
    split
    · rfl
    · simpa [startsAbove] using hj
  | cons c m =>
    obtain ⟨k, v⟩ := c
    obtain ⟨-, -, hs, -⟩ := wf_cons.1 hm
    have hjk : j < k := by simpa [startsAbove] using h
    rcases Nat.lt_trichotomy k n with hk | hk | hk
    · simpa [set_below hk, startsAbove] using hjk
    · subst hk
      rw [set_at, dropWhile_of_startsAbove hs]
      split
      · exact startsAbove_mono (by omega) hs
      · simpa [startsAbove] using hjk
    · rw [set_above hk]
      split <;> simp [startsAbove, hj, hjk]

/-- A write to a cell that exists keeps the canonical form. -/
theorem wf_set {m : Memory} {n : Nat} (b : Byte) (hn : isCell n = true) (h : wf m = true) :
    wf (m.set n b) = true := by
  induction m with
  | nil =>
    simp only [set]
    split
    · rfl
    · next hb => exact wf_cons.2 ⟨hn, hb, rfl, rfl⟩
  | cons c m ih =>
    obtain ⟨k, v⟩ := c
    obtain ⟨hc, hv, hs, hw⟩ := wf_cons.1 h
    rcases Nat.lt_trichotomy k n with hk | hk | hk
    · rw [set_below hk]
      exact wf_cons.2 ⟨hc, hv, startsAbove_set b hk hs hw, ih hw⟩
    · subst hk
      rw [set_at, dropWhile_of_startsAbove hs]
      split
      · exact hw
      · next hb => exact wf_cons.2 ⟨hn, hb, hs, hw⟩
    · rw [set_above hk]
      split
      · exact h
      · next hb => exact wf_cons.2 ⟨hn, hb, by simpa [startsAbove] using hk, h⟩

/-- The physical cell of every address exists. -/
theorem isCell_phys (a : Addr) : isCell (phys a).toNat = true := by
  unfold phys
  split
  · have h : (a &&& 0x07FF).toNat ≤ 0x07FF := by
      rw [BitVec.toNat_and]; exact Nat.and_le_right
    simp only [isCell, Bool.or_eq_true, decide_eq_true_eq]; omega
  · next h =>
    have h1 := a.isLt
    have h2 : ¬ a.toNat < 0x2000 := by simpa [BitVec.lt_def] using h
    simp only [isCell, Bool.or_eq_true, Bool.and_eq_true, decide_eq_true_eq]; omega

/-- What every address reads as after a byte write. -/
theorem read8_write8 (m : Memory) (a j : Addr) (v : Byte) :
    (m.write8 a v).read8 j = if phys j = phys a then v else m.read8 j := by
  simp only [read8, write8, get_set, BitVec.toNat_inj]

@[simp] theorem read8_write8_same (m : Memory) (a : Addr) (v : Byte) : (m.write8 a v).read8 a = v := by
  simp [read8_write8]

theorem read8_write8_other (m : Memory) {a j : Addr} (v : Byte) (h : phys j ≠ phys a) :
    (m.write8 a v).read8 j = m.read8 j := by
  simp [read8_write8, h]

@[simp] theorem wf_write8 {m : Memory} (a : Addr) (v : Byte) (h : wf m = true) :
    wf (m.write8 a v) = true := wf_set v (isCell_phys a) h

theorem wf_load {m : Memory} (a : Addr) (bs : List Byte) (h : wf m = true) : wf (m.load a bs) = true := by
  induction bs generalizing m a with
  | nil => exact h
  | cons b bs ih => exact ih _ (wf_write8 a b h)

end Sys2Proof.Memory

namespace Sys2Proof

/-- `phys` as R61 states it, in numbers. -/
theorem phys_toNat (a : Addr) :
    (phys a).toNat = if a.toNat < 0x2000 then a.toNat % 0x800 else a.toNat := by
  unfold phys
  by_cases h : a < 0x2000
  · have h' : a.toNat < 0x2000 := by simpa [BitVec.lt_def] using h
    simp only [h, h', if_true, BitVec.toNat_and]
    exact Nat.and_two_pow_sub_one_eq_mod a.toNat 11
  · have h' : ¬ a.toNat < 0x2000 := by simpa [BitVec.lt_def] using h
    simp only [h, h', if_false]

end Sys2Proof
end

