-- ==== Sys2Proof/Laws/Ops.lean ====
section
/-! SUPPORT. The addresses of the stack unit, and byte reads after writes to the bus. -/

namespace Sys2Proof.Machine

/-- The stack cell of S (40_execution.md R144). -/
theorem stackAddr_toNat (sp : Byte) : (stackAddr sp).toNat = 0x100 + sp.toNat := by
  have h1 := sp.isLt
  have h2 : (0x0100 : Addr).toNat = 0x100 := rfl
  rw [stackAddr, BitVec.toNat_add, zext16_toNat, h2]
  omega

/-- The stack page is not mirrored onto anything lower. -/
@[simp] theorem phys_stackAddr (sp : Byte) : phys (stackAddr sp) = stackAddr sp := by
  apply BitVec.eq_of_toNat_eq
  have := sp.isLt
  rw [phys_toNat, stackAddr_toNat, if_pos (by omega)]
  omega

/-- Different values of S select different cells. -/
@[simp] theorem stackAddr_inj {a b : Byte} : stackAddr a = stackAddr b ↔ a = b := by
  refine ⟨fun h => BitVec.eq_of_toNat_eq ?_, fun h => h ▸ rfl⟩
  have := congrArg BitVec.toNat h
  rw [stackAddr_toNat, stackAddr_toNat] at this
  omega

/-- An address at or above 0x2000 is its own cell. -/
theorem phys_of_ge {a : Addr} (h : 0x2000 ≤ a.toNat) : phys a = a := by
  apply BitVec.eq_of_toNat_eq
  rw [phys_toNat, if_neg (by omega)]

/-- No stack cell is one of the cells from 0x2000 on, the vectors among them. -/
theorem stackAddr_ne_of_ge {a : Addr} (sp : Byte) (h : 0x2000 ≤ a.toNat) : a ≠ stackAddr sp := by
  rintro rfl
  have := sp.isLt
  rw [stackAddr_toNat] at h
  omega

/-- What every address reads as after a byte write on the bus. -/
theorem read8_of_write8 (s : State) (a j : Addr) (v : Byte) :
    (s.write8 a v).read8 j = if phys j = phys a then v else s.read8 j :=
  Memory.read8_write8 s.mem a j v

/-- What every address reads as after a push. -/
theorem read8_of_push (s : State) (j : Addr) (v : Byte) :
    (s.push v).read8 j = if phys j = stackAddr s.sp then v else s.read8 j := by
  rw [← phys_stackAddr s.sp]
  exact Memory.read8_write8 s.mem (stackAddr s.sp) j v

end Sys2Proof.Machine
end

