-- ==== Sys2Proof/Laws/Step.lean ====
section
/-! SUPPORT. What a step can do, said once. -/

namespace Sys2Proof.Machine

/-- The decoder reads the fetched instruction from the bytes at the program counter. -/
theorem decode_fetchBytes (s : State) : ∃ rest, decode (fetchBytes s) = .ok (fetch s, rest) := by
  have hsize : ∀ op : Byte, (descriptor op).size - 1 ≤ 2 := by decide
  have h := hsize (s.read8 s.pc)
  simp only [fetchBytes, decode, List.length_cons, List.length_nil]
  rw [if_neg (by omega)]
  exact ⟨_, rfl⟩

@[simp] theorem reportLatch_none {t : State} (h : t.fault = none) : reportLatch t = .next t := by
  simp [reportLatch, h]

@[simp] theorem reportLatch_some {t : State} {f : Fault} (h : t.fault = some f) :
    reportLatch t = .fault f := by
  simp [reportLatch, h]

theorem step_of_latched {s : State} {f : Fault} (h : s.fault = some f) : step s = .fault f := by
  simp [step, h]

/-- Without a latched fault a step is the report of what the fetched instruction does. -/
theorem step_of_exec {s t : State} (hf : s.fault = none)
    (h : exec (fetch s) (prologue (fetch s) s) = .next t) : step s = reportLatch t := by
  simp [step, hf, h]

/-- A next state comes out of the fetched instruction's meaning, and no fault is latched in it. -/
theorem step_next {s t : State} (h : step s = .next t) :
    s.fault = none ∧ exec (fetch s) (prologue (fetch s) s) = .next t ∧ t.fault = none := by
  cases hf : s.fault with
  | some f => simp [step, hf] at h
  | none =>
    obtain ⟨u, hu⟩ := exec_answers_next (fetch s) (prologue (fetch s) s)
    rw [step_of_exec hf hu] at h
    cases hl : u.fault with
    | some f => simp [reportLatch, hl] at h
    | none =>
      rw [reportLatch_none hl] at h
      cases h
      exact ⟨rfl, hu, hl⟩

/-- A step is never refused. -/
theorem step_ne_refused (s : State) (r : Refusal) : step s ≠ .refused r := by
  intro h
  cases hf : s.fault with
  | some f => simp [step, hf] at h
  | none =>
    obtain ⟨t, ht⟩ := exec_answers_next (fetch s) (prologue (fetch s) s)
    rw [step_of_exec hf ht] at h
    unfold reportLatch at h
    split at h <;> cases h

theorem hostStep_of_next {s t : State} (h : step s = .next t) : hostStep s = (t, .ok) := by
  simp [hostStep, h]

theorem hostStep_of_fault {s : State} {f : Fault} (h : step s = .fault f) :
    hostStep s = ({ s with fault := some f }, .fault f) := by
  simp [hostStep, h]

/-- The prologue writes PC alone, so an operand loads the same byte after it as before it. -/
theorem loadSrc_prologue (o : Src) (i : Instr) (s : State) : loadSrc o (prologue i s) = loadSrc o s := by
  have h : prologue i s = { s with pc := (prologue i s).pc } := by
    unfold prologue
    split <;> rfl
  rw [h]
  cases o with
  | imm b => rfl
  | mem m => cases m <;> rfl

end Sys2Proof.Machine
end

