-- ==== Sys2Proof/Tests/Slice0.lean ====
section
/-! SUPPORT. The model's own tests. Expected values are the spec's: words from 30_encoding.md, step results from
95_test_vectors.md L2 (the vector is named in each docstring). The witnesses at the end meet the hypotheses of the
obligations that have some. -/

namespace Sys2Proof.Tests

open Sys2Proof.Machine

/-! ## WellFormed: an ill-formed term for each check -/

theorem test_wf_accepts : (Instr.lda (.mem (.zpx 0x10))).wellFormed = true := by decide
theorem test_wf_accepts_invalid : (Instr.invalid 0xFF).wellFormed = true := by decide
theorem test_wf_adc_has_no_zpy : (Instr.adc (.mem (.zpy 0))).wellFormed = false := by decide
theorem test_wf_sbc_has_no_zpy : (Instr.sbc (.mem (.zpy 0))).wellFormed = false := by decide
theorem test_wf_cmp_has_no_zpy : (Instr.cmp (.mem (.zpy 0))).wellFormed = false := by decide
theorem test_wf_and_has_no_zpy : (Instr.and (.mem (.zpy 0))).wellFormed = false := by decide
theorem test_wf_ora_has_no_zpy : (Instr.ora (.mem (.zpy 0))).wellFormed = false := by decide
theorem test_wf_eor_has_no_zpy : (Instr.eor (.mem (.zpy 0))).wellFormed = false := by decide
theorem test_wf_lda_has_no_zpy : (Instr.lda (.mem (.zpy 0))).wellFormed = false := by decide
theorem test_wf_cpx_has_no_index : (Instr.cpx (.mem (.zpx 0))).wellFormed = false := by decide
theorem test_wf_cpy_has_no_index : (Instr.cpy (.mem (.absx 0))).wellFormed = false := by decide
theorem test_wf_bit_has_no_index : (Instr.bit (.zpx 0)).wellFormed = false := by decide
theorem test_wf_asl_has_no_absy : (Instr.asl (.mem (.absy 0))).wellFormed = false := by decide
theorem test_wf_lsr_has_no_izy : (Instr.lsr (.mem (.izy 0))).wellFormed = false := by decide
theorem test_wf_rol_has_no_absy : (Instr.rol (.mem (.absy 0))).wellFormed = false := by decide
theorem test_wf_ror_has_no_izx : (Instr.ror (.mem (.izx 0))).wellFormed = false := by decide
theorem test_wf_inc_has_no_absy : (Instr.inc (.absy 0)).wellFormed = false := by decide
theorem test_wf_dec_has_no_izx : (Instr.dec (.izx 0)).wellFormed = false := by decide
theorem test_wf_ldx_has_no_zpx : (Instr.ldx (.mem (.zpx 0))).wellFormed = false := by decide
theorem test_wf_ldy_has_no_zpy : (Instr.ldy (.mem (.zpy 0))).wellFormed = false := by decide
theorem test_wf_sta_has_no_zpy : (Instr.sta (.zpy 0)).wellFormed = false := by decide
theorem test_wf_stx_has_no_zpx : (Instr.stx (.zpx 0)).wellFormed = false := by decide
theorem test_wf_sty_has_no_zpy : (Instr.sty (.zpy 0)).wellFormed = false := by decide
theorem test_wf_invalid_holds_an_invalid_opcode : (Instr.invalid 0xEA).wellFormed = false := by decide
theorem test_encode_refuses_ill_formed : encode (.stx (.zpx 0)) = none := by decide

/-! ## Decoding: words written out from the opcode list of 30_encoding.md R97 -/

theorem test_decode_arithmetic :
    decode [0x6D, 0x34, 0x12] = .ok (.adc (.mem (.abs 0x1234)), []) ∧
    decode [0xF1, 0x40] = .ok (.sbc (.mem (.izy 0x40)), []) ∧
    decode [0xD9, 0x34, 0x12] = .ok (.cmp (.mem (.absy 0x1234)), []) ∧
    decode [0xE0, 0x7F] = .ok (.cpx (.imm 0x7F), []) ∧
    decode [0xC4, 0x10] = .ok (.cpy (.mem (.zp 0x10)), []) := ⟨rfl, rfl, rfl, rfl, rfl⟩

theorem test_decode_logical :
    decode [0x35, 0x10] = .ok (.and (.mem (.zpx 0x10)), []) ∧
    decode [0x01, 0x10] = .ok (.ora (.mem (.izx 0x10)), []) ∧
    decode [0x5D, 0x34, 0x12] = .ok (.eor (.mem (.absx 0x1234)), []) ∧
    decode [0x2C, 0x34, 0x12] = .ok (.bit (.abs 0x1234), []) := ⟨rfl, rfl, rfl, rfl⟩

theorem test_decode_shift :
    decode [0x0A] = .ok (.asl .acc, []) ∧ decode [0x56, 0x10] = .ok (.lsr (.mem (.zpx 0x10)), []) ∧
    decode [0x2E, 0x34, 0x12] = .ok (.rol (.mem (.abs 0x1234)), []) ∧
    decode [0x7E, 0x34, 0x12] = .ok (.ror (.mem (.absx 0x1234)), []) := ⟨rfl, rfl, rfl, rfl⟩

theorem test_decode_incdec :
    decode [0xE6, 0x10] = .ok (.inc (.zp 0x10), []) ∧ decode [0xDE, 0x34, 0x12] = .ok (.dec (.absx 0x1234), []) ∧
    decode [0xE8] = .ok (.inx, []) ∧ decode [0xC8] = .ok (.iny, []) ∧
    decode [0xCA] = .ok (.dex, []) ∧ decode [0x88] = .ok (.dey, []) := ⟨rfl, rfl, rfl, rfl, rfl, rfl⟩

theorem test_decode_load_store :
    decode [0xB1, 0x40] = .ok (.lda (.mem (.izy 0x40)), []) ∧
    decode [0xBE, 0x34, 0x12] = .ok (.ldx (.mem (.absy 0x1234)), []) ∧
    decode [0xA0, 0x05] = .ok (.ldy (.imm 0x05), []) ∧
    decode [0x81, 0x10] = .ok (.sta (.izx 0x10), []) ∧
    decode [0x96, 0x10] = .ok (.stx (.zpy 0x10), []) ∧
    decode [0x94, 0x10] = .ok (.sty (.zpx 0x10), []) := ⟨rfl, rfl, rfl, rfl, rfl, rfl⟩

theorem test_decode_transfer :
    decode [0xAA] = .ok (.tax, []) ∧ decode [0xA8] = .ok (.tay, []) ∧ decode [0x8A] = .ok (.txa, []) ∧
    decode [0x98] = .ok (.tya, []) ∧ decode [0xBA] = .ok (.tsx, []) ∧ decode [0x9A] = .ok (.txs, []) :=
  ⟨rfl, rfl, rfl, rfl, rfl, rfl⟩

theorem test_decode_branch :
    decode [0x90, 0x80] = .ok (.bcc 0x80, []) ∧ decode [0xB0, 0x7F] = .ok (.bcs 0x7F, []) ∧
    decode [0xF0, 0x10] = .ok (.beq 0x10, []) ∧ decode [0xD0, 0xF9] = .ok (.bne 0xF9, []) ∧
    decode [0x30, 0x04] = .ok (.bmi 0x04, []) ∧ decode [0x10, 0x04] = .ok (.bpl 0x04, []) ∧
    decode [0x50, 0x00] = .ok (.bvc 0x00, []) ∧ decode [0x70, 0xFD] = .ok (.bvs 0xFD, []) :=
  ⟨rfl, rfl, rfl, rfl, rfl, rfl, rfl, rfl⟩

theorem test_decode_stack_control :
    decode [0x48] = .ok (.pha, []) ∧ decode [0x08] = .ok (.php, []) ∧ decode [0x68] = .ok (.pla, []) ∧
    decode [0x28] = .ok (.plp, []) ∧ decode [0x20, 0x10, 0x80] = .ok (.jsr 0x8010, []) ∧
    decode [0x60] = .ok (.rts, []) ∧ decode [0x4C, 0x34, 0x12] = .ok (.jmp (.abs 0x1234), []) ∧
    decode [0x6C, 0xFF, 0x02] = .ok (.jmp (.ind 0x02FF), []) ∧ decode [0x00, 0xEA] = .ok (.brk 0xEA, []) ∧
    decode [0x40] = .ok (.rti, []) := ⟨rfl, rfl, rfl, rfl, rfl, rfl, rfl, rfl, rfl, rfl⟩

theorem test_decode_flag_nop :
    decode [0x38] = .ok (.sec, []) ∧ decode [0x78] = .ok (.sei, []) ∧ decode [0xF8] = .ok (.sed, []) ∧
    decode [0x18] = .ok (.clc, []) ∧ decode [0x58] = .ok (.cli, []) ∧ decode [0xD8] = .ok (.cld, []) ∧
    decode [0xB8] = .ok (.clv, []) ∧ decode [0xEA] = .ok (.nop, []) := ⟨rfl, rfl, rfl, rfl, rfl, rfl, rfl, rfl⟩

theorem test_decode_invalid :
    decode [0xFF] = .ok (.invalid 0xFF, []) ∧ decode [0x02, 0x11] = .ok (.invalid 0x02, [0x11]) ∧
    decode [0x1A] = .ok (.invalid 0x1A, []) ∧ decode [0x89, 0x00] = .ok (.invalid 0x89, [0x00]) :=
  ⟨rfl, rfl, rfl, rfl⟩

theorem test_decode_rejects_a_short_string :
    decode [] = .error .noOpcode ∧ decode [0xAD, 0x34] = .error (.truncated 0xAD 2 1) ∧
    decode [0x00] = .error (.truncated 0x00 1 0) := ⟨rfl, rfl, rfl⟩

theorem test_encode_words :
    encode (.lda (.mem (.abs 0x1234))) = some [0xAD, 0x34, 0x12] ∧ encode (.brk 0xEA) = some [0x00, 0xEA] ∧
    encode (.invalid 0xFF) = some [0xFF] := by decide

theorem test_decode_table_word :
    decodeTableWord 24 0x801020 = some (.jsr 0x8010) ∧ decodeTableWord 8 0x20 = some (.jsr 0x0000) ∧
    decodeTableWord 16 0xEA00 = some (.brk 0xEA) ∧ decodeTableWord 8 0xFF = some (.invalid 0xFF) := by decide

/-! ## The opcode map has no row out of place -/

theorem test_opcode_map_rows : opcodeMap.length = 16 ∧ opcodeMap.all (fun r => r.length == 16) = true := by decide

/-! ## One step -/

/-- All flags clear. -/
def clear : Flags := { c := false, z := false, i := false, d := false, v := false, n := false }

/-- The start state of L2's tables: `code` at 0x8000, PC there, the listed cells, every other default. -/
def at8000 (code : List Byte) (cells : List (Addr × Byte)) : State :=
  { State.reset with
    pc := 0x8000
    p := clear
    mem := (cells.foldl (fun m c => Memory.write8 m c.1 c.2) []).load 0x8000 code }

/-- A step answers a next state that passes the check. -/
def runsTo (s : State) (check : State → Bool) : Bool :=
  match step s with
  | .next t => check t
  | .fault _ => false
  | .refused _ => false

/-- A step reports the fault, which the host finds latched, and nothing else has changed. -/
def faultsWith (s : State) (f : Fault) : Bool :=
  match step s with
  | .next _ => false
  | .fault g => f == g && (hostStep s).1 == { s with fault := some f }
  | .refused _ => false

/-- V-ADC-3 (R160): ADC #$80. -/
theorem test_adc_carry_zero_and_overflow :
    runsTo { at8000 [0x69, 0x80] [] with a := 0x80 }
      (fun t => t.pc == 0x8002 && t.a == 0x00 && t.p == { clear with c := true, z := true, v := true }) = true := by decide

/-- V-ADC-5 (R160): ADC $10. -/
theorem test_adc_zero_page_with_carry :
    runsTo { at8000 [0x65, 0x10] [(0x0010, 0x34)] with a := 0x12, p := { clear with c := true } }
      (fun t => t.pc == 0x8002 && t.a == 0x47 && t.p == clear) = true := by decide

/-- V-SBC-2 (R161): SBC #$B0. -/
theorem test_sbc_signed_overflow :
    runsTo { at8000 [0xE9, 0xB0] [] with a := 0x50, p := { clear with c := true } }
      (fun t => t.pc == 0x8002 && t.a == 0xA0 && t.p == { clear with v := true, n := true }) = true := by decide

/-- V-SBC-4 (R161): SBC #$05. -/
theorem test_sbc_borrow_in :
    runsTo { at8000 [0xE9, 0x05] [] with a := 0x05 }
      (fun t => t.pc == 0x8002 && t.a == 0xFF && t.p == { clear with n := true }) = true := by decide

/-- V-CMP-2 (R163): CMP #$20. -/
theorem test_cmp_below :
    runsTo { at8000 [0xC9, 0x20] [] with a := 0x10 }
      (fun t => t.pc == 0x8002 && t.p == { clear with n := true }) = true := by decide

/-- V-CMP-3 (R163): CMP #$01. -/
theorem test_cmp_keeps_overflow :
    runsTo { at8000 [0xC9, 0x01] [] with a := 0x80, p := { clear with v := true } }
      (fun t => t.pc == 0x8002 && t.p == { clear with v := true, c := true }) = true := by decide

/-- V-CPX-1 (R164): CPX #$00. -/
theorem test_cpx_equal :
    runsTo { at8000 [0xE0, 0x00] [] with x := 0x00 }
      (fun t => t.pc == 0x8002 && t.p == { clear with c := true, z := true }) = true := by decide

/-- V-CPX-2 (R164): CPX $20. -/
theorem test_cpx_zero_page :
    runsTo { at8000 [0xE4, 0x20] [(0x0020, 0x06)] with x := 0x05 }
      (fun t => t.pc == 0x8002 && t.p == { clear with n := true }) = true := by decide

/-- V-CPY-1 (R165): CPY #$FF. -/
theorem test_cpy_below :
    runsTo { at8000 [0xC0, 0xFF] [] with y := 0x7F }
      (fun t => t.pc == 0x8002 && t.p == { clear with n := true }) = true := by decide

/-- V-CPY-2 (R165): CPY $0300. -/
theorem test_cpy_absolute :
    runsTo { at8000 [0xCC, 0x00, 0x03] [(0x0300, 0x10)] with y := 0x90 }
      (fun t => t.pc == 0x8003 && t.p == { clear with c := true, n := true }) = true := by decide

/-- V-AND-1 (R171): AND #$0F. -/
theorem test_and_zero :
    runsTo { at8000 [0x29, 0x0F] [] with a := 0xF0 }
      (fun t => t.pc == 0x8002 && t.a == 0x00 && t.p == { clear with z := true }) = true := by decide

/-- V-AND-2 (R171): AND #$C0. -/
theorem test_and_negative :
    runsTo { at8000 [0x29, 0xC0] [] with a := 0x81 }
      (fun t => t.pc == 0x8002 && t.a == 0x80 && t.p == { clear with n := true }) = true := by decide

/-- V-ORA-1 (R172): ORA #$00. -/
theorem test_ora_zero :
    runsTo { at8000 [0x09, 0x00] [] with a := 0x00 }
      (fun t => t.pc == 0x8002 && t.p == { clear with z := true }) = true := by decide

/-- V-ORA-2 (R172): ORA $10,X. -/
theorem test_ora_index_wraps :
    runsTo { at8000 [0x15, 0xF0] [(0x0010, 0x80)] with a := 0x01, x := 0x20 }
      (fun t => t.pc == 0x8002 && t.a == 0x81 && t.p == { clear with n := true }) = true := by decide

/-- V-EOR-1 (R173): EOR #$FF. -/
theorem test_eor_zero :
    runsTo { at8000 [0x49, 0xFF] [] with a := 0xFF }
      (fun t => t.pc == 0x8002 && t.a == 0x00 && t.p == { clear with z := true }) = true := by decide

/-- V-EOR-2 (R173): EOR #$0F. -/
theorem test_eor_bits :
    runsTo { at8000 [0x49, 0x0F] [] with a := 0x3C }
      (fun t => t.pc == 0x8002 && t.a == 0x33 && t.p == clear) = true := by decide

/-- V-BIT-1 (R174): BIT $10. -/
theorem test_bit_sets_n_and_v :
    runsTo { at8000 [0x24, 0x10] [(0x0010, 0xC0)] with a := 0x0F }
      (fun t => t.pc == 0x8002 && t.p == { clear with z := true, v := true, n := true }) = true := by decide

/-- V-BIT-2 (R174): BIT $0200. -/
theorem test_bit_clears_n_and_v :
    runsTo { at8000 [0x2C, 0x00, 0x02] [(0x0200, 0x01)] with a := 0x01, p := { clear with n := true, v := true } }
      (fun t => t.pc == 0x8003 && t.p == clear) = true := by decide

/-- V-ASL-1 (R181): ASL A. -/
theorem test_asl_accumulator :
    runsTo { at8000 [0x0A] [] with a := 0x81 }
      (fun t => t.pc == 0x8001 && t.a == 0x02 && t.p == { clear with c := true }) = true := by decide

/-- V-ASL-2 (R181): ASL $10. -/
theorem test_asl_memory :
    runsTo (at8000 [0x06, 0x10] [(0x0010, 0x40)])
      (fun t => t.pc == 0x8002 && t.p == { clear with n := true } && t.read8 0x0010 == 0x80) = true := by decide

/-- V-LSR-1 (R182): LSR A. -/
theorem test_lsr_accumulator :
    runsTo { at8000 [0x4A] [] with a := 0x01 }
      (fun t => t.pc == 0x8001 && t.a == 0x00 && t.p == { clear with c := true, z := true }) = true := by decide

/-- V-LSR-2 (R182): LSR $0300,X. -/
theorem test_lsr_absolute_x :
    runsTo { at8000 [0x5E, 0x00, 0x03] [(0x0302, 0xFE)] with x := 0x02 }
      (fun t => t.pc == 0x8003 && t.p == clear && t.read8 0x0302 == 0x7F) = true := by decide

/-- V-ROL-1 (R183): ROL A. -/
theorem test_rol_accumulator :
    runsTo { at8000 [0x2A] [] with a := 0x80, p := { clear with c := true } }
      (fun t => t.pc == 0x8001 && t.a == 0x01 && t.p == { clear with c := true }) = true := by decide

/-- V-ROL-2 (R183): ROL $10. -/
theorem test_rol_memory :
    runsTo (at8000 [0x26, 0x10] [(0x0010, 0x7F)])
      (fun t => t.pc == 0x8002 && t.p == { clear with n := true } && t.read8 0x0010 == 0xFE) = true := by decide

/-- V-ROR-1 (R184): ROR A. -/
theorem test_ror_accumulator :
    runsTo { at8000 [0x6A] [] with a := 0x01, p := { clear with c := true } }
      (fun t => t.pc == 0x8001 && t.a == 0x80 && t.p == { clear with c := true, n := true }) = true := by decide

/-- V-ROR-2 (R184): ROR $10. -/
theorem test_ror_memory :
    runsTo (at8000 [0x66, 0x10] [(0x0010, 0x01)])
      (fun t => t.pc == 0x8002 && t.p == { clear with c := true, z := true } && t.read8 0x0010 == 0x00) = true := by decide

/-- V-INC-1 (R190): INC $10. -/
theorem test_inc_wraps :
    runsTo (at8000 [0xE6, 0x10] [(0x0010, 0xFF)])
      (fun t => t.pc == 0x8002 && t.p == { clear with z := true } && t.read8 0x0010 == 0x00) = true := by decide

/-- V-INC-2 (R190): INC $0800. -/
theorem test_inc_mirror :
    runsTo (at8000 [0xEE, 0x00, 0x08] [(0x0000, 0x7F)])
      (fun t => t.pc == 0x8003 && t.p == { clear with n := true } && t.read8 0x0000 == 0x80) = true := by decide

/-- V-DEC-1 (R191): DEC $10. -/
theorem test_dec_wraps :
    runsTo (at8000 [0xC6, 0x10] [(0x0010, 0x00)])
      (fun t => t.pc == 0x8002 && t.p == { clear with n := true } && t.read8 0x0010 == 0xFF) = true := by decide

/-- V-DEC-2 (R191): DEC $10,X. -/
theorem test_dec_indexed :
    runsTo { at8000 [0xD6, 0xFF] [(0x0010, 0x01)] with x := 0x11 }
      (fun t => t.pc == 0x8002 && t.p == { clear with z := true } && t.read8 0x0010 == 0x00) = true := by decide

/-- V-INX-1 (R192): INX. -/
theorem test_inx_wraps :
    runsTo { at8000 [0xE8] [] with x := 0xFF, p := { clear with c := true } }
      (fun t => t.pc == 0x8001 && t.x == 0x00 && t.p == { clear with c := true, z := true }) = true := by decide

/-- V-INY-1 (R193): INY. -/
theorem test_iny_negative :
    runsTo { at8000 [0xC8] [] with y := 0x7F }
      (fun t => t.pc == 0x8001 && t.y == 0x80 && t.p == { clear with n := true }) = true := by decide

/-- V-DEX-1 (R194): DEX. -/
theorem test_dex_wraps :
    runsTo { at8000 [0xCA] [] with x := 0x00 }
      (fun t => t.pc == 0x8001 && t.x == 0xFF && t.p == { clear with n := true }) = true := by decide

/-- V-DEY-1 (R195): DEY. -/
theorem test_dey_zero :
    runsTo { at8000 [0x88] [] with y := 0x01 }
      (fun t => t.pc == 0x8001 && t.y == 0x00 && t.p == { clear with z := true }) = true := by decide

/-- V-LDA-7 (R200): LDA ($FF,X). -/
theorem test_lda_pointer_without_wrap :
    runsTo { at8000 [0xA1, 0xFF] [(0x00FF, 0x00), (0x0000, 0x03), (0x0100, 0x04), (0x0300, 0x11), (0x0400, 0x22)] with x := 0x00, cfg := { Config.default with zpPointerWrap := false } }
      (fun t => t.pc == 0x8002 && t.a == 0x22 && t.p == clear) = true := by decide

/-- V-LDA-8 (R200): LDA ($40),Y. -/
theorem test_lda_indirect_indexed :
    runsTo { at8000 [0xB1, 0x40] [(0x0040, 0xF8), (0x0041, 0x02), (0x0308, 0x5A)] with y := 0x10 }
      (fun t => t.pc == 0x8002 && t.a == 0x5A && t.p == clear) = true := by decide

/-- V-LDX-1 (R201): LDX $10,Y. -/
theorem test_ldx_zero_page_y :
    runsTo { at8000 [0xB6, 0xF5] [(0x0015, 0xFE)] with y := 0x20 }
      (fun t => t.pc == 0x8002 && t.x == 0xFE && t.p == { clear with n := true }) = true := by decide

/-- V-LDX-2 (R201): LDX #$00. -/
theorem test_ldx_zero :
    runsTo { at8000 [0xA2, 0x00] [] with x := 0x01 }
      (fun t => t.pc == 0x8002 && t.x == 0x00 && t.p == { clear with z := true }) = true := by decide

/-- V-LDY-1 (R202): LDY $0300,X. -/
theorem test_ldy_absolute_x :
    runsTo { at8000 [0xBC, 0x00, 0x03] [(0x0301, 0x80)] with x := 0x01 }
      (fun t => t.pc == 0x8003 && t.y == 0x80 && t.p == { clear with n := true }) = true := by decide

/-- V-STA-1 (R203): STA $0801. -/
theorem test_sta_mirror :
    runsTo { at8000 [0x8D, 0x01, 0x08] [] with a := 0xAB, p := { clear with z := true, n := true } }
      (fun t => t.pc == 0x8003 && t.p == { clear with z := true, n := true } && t.read8 0x0001 == 0xAB) = true := by decide

/-- V-STA-2 (R203): STA ($40),Y. -/
theorem test_sta_indirect_indexed :
    runsTo { at8000 [0x91, 0x40] [(0x0040, 0x40), (0x0041, 0x00)] with a := 0x01, y := 0x01 }
      (fun t => t.pc == 0x8002 && t.p == clear && t.read8 0x0041 == 0x01) = true := by decide

/-- V-STX-1 (R204): STX $10,Y. -/
theorem test_stx_zero_page_y :
    runsTo { at8000 [0x96, 0xF0] [] with x := 0x12, y := 0x20 }
      (fun t => t.pc == 0x8002 && t.p == clear && t.read8 0x0010 == 0x12) = true := by decide

/-- V-STY-1 (R205): STY $2000. -/
theorem test_sty_not_mirrored :
    runsTo { at8000 [0x8C, 0x00, 0x20] [] with y := 0x34 }
      (fun t => t.pc == 0x8003 && t.p == clear && t.read8 0x2000 == 0x34) = true := by decide

/-- V-TAX-1 (R210): TAX. -/
theorem test_tax_negative :
    runsTo { at8000 [0xAA] [] with a := 0x80 }
      (fun t => t.pc == 0x8001 && t.x == 0x80 && t.p == { clear with n := true }) = true := by decide

/-- V-TAY-1 (R211): TAY. -/
theorem test_tay_zero :
    runsTo { at8000 [0xA8] [] with a := 0x00, y := 0x05 }
      (fun t => t.pc == 0x8001 && t.y == 0x00 && t.p == { clear with z := true }) = true := by decide

/-- V-TXA-1 (R212): TXA. -/
theorem test_txa_positive :
    runsTo { at8000 [0x8A] [] with x := 0x7F, a := 0x80, p := { clear with n := true } }
      (fun t => t.pc == 0x8001 && t.a == 0x7F && t.p == clear) = true := by decide

/-- V-TYA-1 (R213): TYA. -/
theorem test_tya_negative :
    runsTo { at8000 [0x98] [] with y := 0xFF }
      (fun t => t.pc == 0x8001 && t.a == 0xFF && t.p == { clear with n := true }) = true := by decide

/-- V-TSX-1 (R214): TSX. -/
theorem test_tsx_zero :
    runsTo { at8000 [0xBA] [] with sp := 0x00, x := 0x10 }
      (fun t => t.pc == 0x8001 && t.x == 0x00 && t.p == { clear with z := true }) = true := by decide

/-- V-TXS-1 (R215): TXS. -/
theorem test_txs_no_flags :
    runsTo { at8000 [0x9A] [] with x := 0x00, p := { clear with n := true } }
      (fun t => t.pc == 0x8001 && t.sp == 0x00 && t.p == { clear with n := true }) = true := by decide

/-- V-BEQ-1 (R224): BEQ +$10 (taken). -/
theorem test_beq_taken :
    runsTo { at8000 [0xF0, 0x10] [] with p := { clear with z := true } }
      (fun t => t.pc == 0x8012 && t.p == { clear with z := true }) = true := by decide

/-- V-BEQ-2 (R224): BEQ +$10 (not taken). -/
theorem test_beq_not_taken :
    runsTo (at8000 [0xF0, 0x10] [])
      (fun t => t.pc == 0x8002 && t.p == clear) = true := by decide

/-- V-BNE-1 (R225): BNE -2. -/
theorem test_bne_back :
    runsTo (at8000 [0xD0, 0xFE] [])
      (fun t => t.pc == 0x8000 && t.p == clear) = true := by decide

/-- V-BCC-1 (R222): BCC -128. -/
theorem test_bcc_minus_128 :
    runsTo (at8000 [0x90, 0x80] [])
      (fun t => t.pc == 0x7F82 && t.p == clear) = true := by decide

/-- V-BCS-1 (R223): BCS +127. -/
theorem test_bcs_plus_127 :
    runsTo { at8000 [0xB0, 0x7F] [] with p := { clear with c := true } }
      (fun t => t.pc == 0x8081 && t.p == { clear with c := true }) = true := by decide

/-- V-BMI-1 (R226): BMI +4 (not taken). -/
theorem test_bmi_not_taken :
    runsTo (at8000 [0x30, 0x04] [])
      (fun t => t.pc == 0x8002 && t.p == clear) = true := by decide

/-- V-BPL-1 (R227): BPL +4. -/
theorem test_bpl_taken :
    runsTo (at8000 [0x10, 0x04] [])
      (fun t => t.pc == 0x8006 && t.p == clear) = true := by decide

/-- V-BVC-1 (R228): BVC +0. -/
theorem test_bvc_offset_zero :
    runsTo (at8000 [0x50, 0x00] [])
      (fun t => t.pc == 0x8002 && t.p == clear) = true := by decide

/-- V-BVS-1 (R229): BVS -3. -/
theorem test_bvs_back_a_page :
    runsTo { at8000 [0x70, 0xFD] [] with p := { clear with v := true } }
      (fun t => t.pc == 0x7FFF && t.p == { clear with v := true }) = true := by decide

/-- V-PHA-1 (R230): PHA. -/
theorem test_pha_at_ff :
    runsTo { at8000 [0x48] [] with a := 0x42, sp := 0xFF }
      (fun t => t.pc == 0x8001 && t.sp == 0xFE && t.p == clear && t.read8 0x01FF == 0x42) = true := by decide

/-- V-PHA-2 (R230): PHA. -/
theorem test_pha_at_zero :
    runsTo { at8000 [0x48] [] with a := 0x42, sp := 0x00 }
      (fun t => t.pc == 0x8001 && t.sp == 0xFF && t.p == clear && t.read8 0x0100 == 0x42) = true := by decide

/-- V-PHP-1 (R231): PHP. -/
theorem test_php_three_flags :
    runsTo { at8000 [0x08] [] with sp := 0xFF, p := { clear with n := true, i := true, c := true } }
      (fun t => t.pc == 0x8001 && t.sp == 0xFE && t.p == { clear with n := true, i := true, c := true } && t.read8 0x01FF == 0xB5) = true := by decide

/-- V-PHP-2 (R231): PHP. -/
theorem test_php_no_flags :
    runsTo { at8000 [0x08] [] with sp := 0xFF }
      (fun t => t.pc == 0x8001 && t.sp == 0xFE && t.p == clear && t.read8 0x01FF == 0x30) = true := by decide

/-- V-PLA-1 (R232): PLA. -/
theorem test_pla_zero :
    runsTo { at8000 [0x68] [(0x01FF, 0x00)] with sp := 0xFE }
      (fun t => t.pc == 0x8001 && t.sp == 0xFF && t.p == { clear with z := true }) = true := by decide

/-- V-PLA-2 (R232): PLA. -/
theorem test_pla_wraps :
    runsTo { at8000 [0x68] [(0x0100, 0x90)] with sp := 0xFF }
      (fun t => t.pc == 0x8001 && t.a == 0x90 && t.sp == 0x00 && t.p == { clear with n := true }) = true := by decide

/-- V-PLP-1 (R233): PLP. -/
theorem test_plp_four_flags :
    runsTo { at8000 [0x28] [(0x01FF, 0xC3)] with sp := 0xFE }
      (fun t => t.pc == 0x8001 && t.sp == 0xFF && t.p == { clear with c := true, z := true, v := true, n := true }) = true := by decide

/-- V-PLP-2 (R233): PLP. -/
theorem test_plp_ignores_b_and_bit_5 :
    runsTo { at8000 [0x28] [(0x01FF, 0x30)] with sp := 0xFE, p := { clear with c := true, z := true, i := true, d := true, v := true, n := true } }
      (fun t => t.pc == 0x8001 && t.sp == 0xFF && t.p == clear) = true := by decide

/-- V-JSR-1 (R234): JSR $8010. -/
theorem test_jsr_call :
    runsTo { at8000 [0x20, 0x10, 0x80] [] with sp := 0xFF }
      (fun t => t.pc == 0x8010 && t.sp == 0xFD && t.p == clear && t.read8 0x01FE == 0x02 && t.read8 0x01FF == 0x80) = true := by decide

/-- V-RTS-1 (R235): RTS. -/
theorem test_rts_return :
    runsTo { at8000 [0x60] [(0x01FE, 0x07), (0x01FF, 0x80)] with sp := 0xFD }
      (fun t => t.pc == 0x8008 && t.sp == 0xFF && t.p == clear) = true := by decide

/-- V-RTS-2 (R235): RTS. -/
theorem test_rts_wraps :
    runsTo { at8000 [0x60] [(0x01FE, 0xFF), (0x01FF, 0xFF)] with sp := 0xFD }
      (fun t => t.pc == 0x0000 && t.sp == 0xFF && t.p == clear) = true := by decide

/-- V-JMP-4 (R236): JMP ($02FF). -/
theorem test_jmp_page_wrap :
    runsTo { at8000 [0x6C, 0xFF, 0x02] [(0x02FF, 0x34), (0x0300, 0x12), (0x0200, 0x56)] with cfg := { Config.default with jmpIndPageWrap := true } }
      (fun t => t.pc == 0x5634 && t.p == clear) = true := by decide

/-- V-JMP-5 (R236): JMP ($07FF). -/
theorem test_jmp_across_the_mirror :
    runsTo (at8000 [0x6C, 0xFF, 0x07] [(0x07FF, 0x00), (0x0000, 0x90)])
      (fun t => t.pc == 0x9000 && t.p == clear) = true := by decide

/-- V-BRK-2 (R238): BRK. -/
theorem test_brk_offset_two :
    runsTo { at8000 [0x00, 0xEA] [(0xFFFE, 0x00), (0xFFFF, 0x90)] with sp := 0xFF, p := { clear with n := true }, cfg := { Config.default with brkPushOffset := .two } }
      (fun t => t.pc == 0x9000 && t.sp == 0xFC && t.p == { clear with n := true, i := true } && t.read8 0x01FD == 0xB0 && t.read8 0x01FE == 0x02 && t.read8 0x01FF == 0x80) = true := by decide

/-- V-BRK-3 (R238): BRK. -/
theorem test_brk_stack_wraps :
    runsTo { at8000 [0x00, 0xEA] [(0xFFFE, 0x00), (0xFFFF, 0x90)] with sp := 0x01, p := { clear with i := true, d := true } }
      (fun t => t.pc == 0x9000 && t.sp == 0xFE && t.p == { clear with i := true, d := true } && t.read8 0x0100 == 0x01 && t.read8 0x0101 == 0x80 && t.read8 0x01FF == 0x3C) = true := by decide

/-- V-RTI-1 (R239): RTI. -/
theorem test_rti_clears_i :
    runsTo { at8000 [0x40] [(0x01FD, 0xB0), (0x01FE, 0x01), (0x01FF, 0x80)] with sp := 0xFC, p := { clear with i := true } }
      (fun t => t.pc == 0x8001 && t.sp == 0xFF && t.p == { clear with n := true }) = true := by decide

/-- V-RTI-2 (R239): RTI. -/
theorem test_rti_all_flags :
    runsTo { at8000 [0x40] [(0x01FD, 0xFF), (0x01FE, 0x00), (0x01FF, 0x90)] with sp := 0xFC }
      (fun t => t.pc == 0x9000 && t.sp == 0xFF && t.p == { clear with c := true, z := true, i := true, d := true, v := true, n := true }) = true := by decide

/-- V-SEC-1 (R250): SEC. -/
theorem test_sec_sets :
    runsTo (at8000 [0x38] [])
      (fun t => t.pc == 0x8001 && t.p == { clear with c := true }) = true := by decide

/-- V-SEI-1 (R251): SEI. -/
theorem test_sei_sets :
    runsTo (at8000 [0x78] [])
      (fun t => t.pc == 0x8001 && t.p == { clear with i := true }) = true := by decide

/-- V-SED-1 (R252): SED. -/
theorem test_sed_sets :
    runsTo (at8000 [0xF8] [])
      (fun t => t.pc == 0x8001 && t.p == { clear with d := true }) = true := by decide

/-- V-CLC-1 (R253): CLC. -/
theorem test_clc_clears :
    runsTo { at8000 [0x18] [] with p := { clear with c := true } }
      (fun t => t.pc == 0x8001 && t.p == clear) = true := by decide

/-- V-CLI-1 (R254): CLI. -/
theorem test_cli_clears :
    runsTo { at8000 [0x58] [] with p := { clear with i := true } }
      (fun t => t.pc == 0x8001 && t.p == clear) = true := by decide

/-- V-CLD-1 (R255): CLD. -/
theorem test_cld_clears :
    runsTo { at8000 [0xD8] [] with p := { clear with d := true } }
      (fun t => t.pc == 0x8001 && t.p == clear) = true := by decide

/-- V-CLV-1 (R256): CLV. -/
theorem test_clv_clears :
    runsTo { at8000 [0xB8] [] with p := { clear with v := true } }
      (fun t => t.pc == 0x8001 && t.p == clear) = true := by decide

/-- V-NOP-1 (R257): NOP. -/
theorem test_nop_only_pc :
    runsTo { at8000 [0xEA] [] with a := 0x12 }
      (fun t => t.pc == 0x8001 && t.p == clear) = true := by decide

/-- V-INV-1 (R261). -/
theorem test_invalid_ff : faultsWith (at8000 [0xFF, 0x00] []) (.invalidOpcode 0xFF 0x8000) = true := by decide

/-- V-INV-2 (R261). -/
theorem test_invalid_02 : faultsWith (at8000 [0x02] []) (.invalidOpcode 0x02 0x8000) = true := by decide

/-- V-MEM-1 (R64, R131): the instruction's last byte is in the mirrored cell 0x0000. -/
theorem test_fetch_across_the_mirror :
    runsTo { at8000 [] [(0x07FE, 0xAD), (0x07FF, 0x34), (0x0000, 0x12), (0x0234, 0x5A)] with pc := 0x07FE }
      (fun t => t.a == 0x5A && t.pc == 0x0801) = true := by decide

/-- V-MEM-2 (R131): the instruction wraps from 0xFFFF to 0x0000. -/
theorem test_fetch_wraps :
    runsTo { at8000 [] [(0xFFFE, 0xAD), (0xFFFF, 0x00), (0x0000, 0x03), (0x0300, 0x77)] with pc := 0xFFFE }
      (fun t => t.a == 0x77 && t.pc == 0x0001) = true := by decide

/-- V-MEM-5 (R78): the store is there at the next fetch. -/
theorem test_store_into_code :
    runsTo { at8000 [0x8D, 0x05, 0x80] [] with a := 0xE8 }
      (fun t => fetch { t with pc := 0x8005 } == .inx) = true := by decide

/-- V-LDA-3, V-LDA-4, V-LDA-5 (R125): effective addresses of the modes that the vectors above leave out. -/
theorem test_effective_addresses :
    effAddr (.absy 0x12FF) { at8000 [] [] with y := 0x01 } = 0x1300 ∧
    effAddr (.absx 0xFFFF) { at8000 [] [] with x := 0x02 } = 0x0001 ∧
    effAddr (.izx 0x20) { at8000 [] [(0x0025, 0x03)] with x := 0x04 } = 0x0300 := by decide

/-- V-LDA-6 (R127): the pointer at 0xFF under the default `ZP_POINTER_WRAP`. -/
theorem test_zero_page_pointer_wraps :
    (at8000 [] [(0x0000, 0x03), (0x0100, 0x04)]).zpRead16 0xFF = 0x0300 := by decide

/-- V-JMP-3 (R128): the pointer at a page's end under the default `JMP_IND_PAGE_WRAP`. -/
theorem test_indirect_pointer_crosses_the_page :
    (at8000 [] [(0x02FF, 0x34), (0x0300, 0x12), (0x0200, 0x56)]).indRead16 0x02FF = 0x1234 := by decide

/-- E9 (R290 to R292): reset reads the vector low byte first. -/
theorem test_reset_reads_the_vector :
    ((at8000 [] [(0xFFFC, 0x34), (0xFFFD, 0x12)]).resetWith Draws.chosen).pc = 0x1234 := by decide

/-- The word placed by `withFetchWord` is what the next step from reset runs: LDA #$01, and an invalid opcode. -/
theorem test_fetch_word_runs :
    runsTo (State.reset.withFetchWord 16 0x01A9) (fun t => t.a == 0x01 && t.pc == 0x0002) = true ∧
    faultsWith (State.reset.withFetchWord 8 0x02) (.invalidOpcode 0x02 0x0000) = true := by decide

/-- A memory write of what an unlisted cell reads as removes the entry. -/
theorem test_memory_is_canonical :
    Memory.write8 (Memory.write8 [] 0x0801 0xAB) 0x1001 0xCD = [(0x0001, 0xCD)] ∧
    Memory.write8 (Memory.write8 [] 0x2000 0xAB) 0x2000 0x00 = [] := by decide

/-! ## Witnesses: states and operands that meet the hypotheses of the obligations -/

/-- Operands at both ends of their ranges, and each end of the invalid list. -/
theorem witness_DecodeOfEncodeGivesTheInstructionBack :
    (Instr.adc (.imm 0x00)).wellFormed = true ∧ (Instr.sta (.absx 0xFFFF)).wellFormed = true ∧
    (Instr.brk 0xFF).wellFormed = true ∧ (Instr.invalid 0x02).wellFormed = true ∧
    (Instr.invalid 0xFF).wellFormed = true := by decide

theorem witness_EncodeOfDecodeGivesTheBytesBack :
    decode [0x8D, 0x05, 0x80, 0xEA] = .ok (.sta (.abs 0x8005), [0xEA]) := rfl

theorem witness_InstructionSizeIsFixedByMode :
    encode .nop = some [0xEA] ∧ encode (.invalid 0x02) = some [0x02] ∧ encode (.brk 0x00) = some [0x00, 0x00] ∧
    encode (.ldx (.mem (.zpy 0xFF))) = some [0xB6, 0xFF] ∧ encode (.jmp (.ind 0xFFFF)) = some [0x6C, 0xFF, 0xFF] := by
  decide

/-- The bytes at PC of a state with `code` at 0x8000. -/
def bytesAtPc (s : State) : List Byte := [s.read8 s.pc, s.read8 (s.pc + 1), s.read8 (s.pc + 2)]

theorem witness_StepRunsTheDecodedInstruction :
    (at8000 [0xA9, 0x01] []).fault = none ∧
    decode (bytesAtPc (at8000 [0xA9, 0x01] [])) = .ok (.lda (.imm 0x01), [0x00]) ∧
    (Instr.lda (.imm 0x01)).kind ≠ .invalid := ⟨rfl, rfl, by decide⟩

/-- One state for each branch: an invalid opcode at PC, and a valid one. -/
theorem witness_InvalidOpcodeFaultsAndIsLatched :
    ((at8000 [0xFF] []).fault = none ∧ (at8000 [0xFF] []).read8 0x8000 ∈ invalidOpcodes) ∧
    ((at8000 [0x00] []).fault = none ∧ (at8000 [0x00] []).read8 0x8000 ∉ invalidOpcodes) := by decide

theorem witness_FaultLatchIsStickyUntilReset :
    ((at8000 [0xFF] []).latchInvalidOpcode 0xFF).fault = some (.invalidOpcode 0xFF 0x8000) := by decide

/-- A call that is no reset, for the last clause. -/
theorem witness_FaultLatchIsStickyUntilReset_call : ∀ r, HostCall.load 0x8000 [0xEA] ≠ .reset r := by
  intro r h; cases h

theorem witness_StepKeepsTheInvariant :
    (at8000 [0x48] []).Inv ∧ runsTo { at8000 [0x48] [] with a := 0x42 } (fun t => t.mem.length == 2) = true := by
  decide

/-- A state with a latched fault, and one without. -/
theorem witness_HostStepAndResetKeepTheInvariant :
    ((at8000 [0xFF] []).latchInvalidOpcode 0xFF).Inv ∧ (at8000 [0xFF] []).Inv := by decide

/-- For each flag an instruction that changes it. -/
theorem witness_FlagsChangeOnlyByTheirWriters :
    (∃ t, exec .sec (at8000 [] []) = .next t ∧ t.p.c ≠ (at8000 [] []).p.c) ∧
    (∃ t, exec .dex (at8000 [] []) = .next t ∧ t.p.n ≠ (at8000 [] []).p.n) ∧
    (∃ t, exec .inx { at8000 [] [] with x := 0xFF } = .next t ∧ t.p.z ≠ clear.z) ∧
    (∃ t, exec (.bit (.zp 0x10)) (at8000 [] [(0x0010, 0x40)]) = .next t ∧ t.p.v ≠ clear.v) ∧
    (∃ t, exec .sei (at8000 [] []) = .next t ∧ t.p.i ≠ (at8000 [] []).p.i) ∧
    (∃ t, exec .sed (at8000 [] []) = .next t ∧ t.p.d ≠ (at8000 [] []).p.d) :=
  ⟨⟨_, rfl, by decide⟩, ⟨_, rfl, by decide⟩, ⟨_, rfl, by decide⟩, ⟨_, rfl, by decide⟩, ⟨_, rfl, by decide⟩,
    ⟨_, rfl, by decide⟩⟩

/-- For each register, and for memory and the latch, an instruction that changes it. -/
theorem witness_RegistersAndMemoryChangeOnlyByTheirWriters :
    (∃ t, exec (.lda (.imm 0x01)) (at8000 [] []) = .next t ∧ t.a ≠ (at8000 [] []).a) ∧
    (∃ t, exec (.asl .acc) { at8000 [] [] with a := 0x01 } = .next t ∧ t.a ≠ 0x01) ∧
    (∃ t, exec .inx (at8000 [] []) = .next t ∧ t.x ≠ (at8000 [] []).x) ∧
    (∃ t, exec .dey (at8000 [] []) = .next t ∧ t.y ≠ (at8000 [] []).y) ∧
    (∃ t, exec .pha (at8000 [] []) = .next t ∧ t.sp ≠ (at8000 [] []).sp) ∧
    (∃ t, exec (.jmp (.abs 0xFFFF)) (at8000 [] []) = .next t ∧ t.pc ≠ (at8000 [] []).pc) ∧
    (∃ t, exec (.inc (.zp 0x00)) (at8000 [] []) = .next t ∧ t.mem ≠ (at8000 [] []).mem) ∧
    (∃ t, exec (.asl (.mem (.zp 0x10))) (at8000 [] [(0x0010, 0x40)]) = .next t ∧
      t.mem ≠ (at8000 [] [(0x0010, 0x40)]).mem) ∧
    (∃ t, exec (.invalid 0xFF) (at8000 [] []) = .next t ∧ t.fault ≠ (at8000 [] []).fault) :=
  ⟨⟨_, rfl, by decide⟩, ⟨_, rfl, by decide⟩, ⟨_, rfl, by decide⟩, ⟨_, rfl, by decide⟩, ⟨_, rfl, by decide⟩,
    ⟨_, rfl, by decide⟩, ⟨_, rfl, by decide⟩, ⟨_, rfl, by decide⟩, ⟨_, rfl, by decide⟩⟩

/-- An instruction for each clause: one that neither writes I nor pushes the status, one that writes I, PHP and BRK;
and an address that the pushed status byte does not cover. -/
theorem witness_InterruptDisableFlagSteersNothing :
    Instr.nop.kind ∉ ([.php, .brk] : List Kind) ∧ Instr.cli.kind ∈ ([.plp, .rti, .sei, .cli] : List Kind) ∧
    Instr.php.kind = .php ∧ (Instr.brk 0).kind = .brk ∧
    phys 0x0100 ≠ phys (stackAddr (at8000 [] []).sp) ∧
    phys 0x01FF ≠ phys (stackAddr ((at8000 [] []).sp - 2)) := by decide

/-- The first and the last of the mirrored addresses of one cell. -/
theorem witness_MirroredReadReturnsTheWrittenByte :
    (0x0000 : Addr) &&& 0x07FF = 0x1800 &&& 0x07FF ∧ (0x0000 : Addr) < 0x2000 ∧ (0x1800 : Addr) < 0x2000 ∧
    (0x07FF : Addr) &&& 0x07FF = 0x1FFF &&& 0x07FF ∧ (0x07FF : Addr) < 0x2000 ∧ (0x1FFF : Addr) < 0x2000 := by decide

theorem witness_CanonicalMemoryIsKeptAndUnique :
    Memory.wf [(0x0000, 0x01), (0x07FF, 0x02), (0x2000, 0x03), (0xFFFF, 0xFF)] = true ∧ Memory.wf [] = true ∧
    ∀ a : Addr, Memory.read8 [] a = Memory.read8 [] a := ⟨by decide, by decide, fun _ => rfl⟩

/-- S = 0, for the last clause. -/
theorem witness_StackAccessesStayInTheStackPage : State.sp { at8000 [] [] with sp := 0x00 } = 0 := by decide

theorem witness_FetchedOperandIsTheResolvedOne :
    srcOperand (fetch (at8000 [0xA9, 0x01] [])) = some (.imm 0x01) ∧
    srcOperand (fetch (at8000 [0xB1, 0xFF] [])) = some (.mem (.izy 0xFF)) := by decide

/-- PC two bytes after a BRK at 0x8000, and after one at 0xFFFE. -/
theorem witness_BrkEntersTheTrap :
    State.pc { at8000 [] [] with pc := 0x8002 } = 0x8000 + 2 ∧
    State.pc { at8000 [] [] with pc := 0x0000 } = 0xFFFE + 2 := by decide

/-- JSR $8010 at 0x8000, and an RTS at its target after the step. -/
theorem witness_JsrThenRtsResumesAfterTheCall :
    (at8000 [0x20, 0x10, 0x80] [(0x8010, 0x60)]).fault = none ∧
    (at8000 [0x20, 0x10, 0x80] [(0x8010, 0x60)]).read8 0x8000 = 0x20 ∧
    runsTo (at8000 [0x20, 0x10, 0x80] [(0x8010, 0x60)]) (fun t => t.pc == 0x8010 && t.read8 t.pc == 0x60) = true := by
  decide

/-- BRK at 0x8000, and an RTI at the handler after the step. -/
theorem witness_BrkThenRtiRestoresFlagsAndStack :
    (at8000 [0x00, 0xEA] [(0xFFFF, 0x90), (0x9000, 0x40)]).fault = none ∧
    (at8000 [0x00, 0xEA] [(0xFFFF, 0x90), (0x9000, 0x40)]).read8 0x8000 = 0x00 ∧
    runsTo (at8000 [0x00, 0xEA] [(0xFFFF, 0x90), (0x9000, 0x40)])
      (fun t => t.pc == 0x9000 && t.read8 t.pc == 0x40) = true := by decide

theorem witness_NopOnlyAdvancesPc :
    (at8000 [0xEA] []).fault = none ∧ (at8000 [0xEA] []).read8 (at8000 [0xEA] []).pc = 0xEA := by decide

theorem witness_ResetStateComesFromTheResetOperation :
    State.mem { State.reset with a := 0x12, pc := 0x8000 } = [] ∧
    State.cfg { State.reset with a := 0x12, pc := 0x8000 } = Config.default := by decide

/-- A run of two steps that ends in a next state, one that stops in its last step, and one that stops in its first. -/
theorem witness_RunStopsAtTheFirstFault :
    (hostRun 2 (at8000 [0xEA, 0xEA] [])).2 = .ok ∧
    (hostRun 2 (at8000 [0xEA, 0xFF] [])).2 = .fault (.invalidOpcode 0xFF 0x8001) ∧
    (hostRun 2 (at8000 [0xFF] [])).2 = .fault (.invalidOpcode 0xFF 0x8000) := by decide

/-- STA $8000 at 0x8000: the store hits the instruction's own opcode byte. -/
theorem witness_StoreOverOwnBytesTakesEffectAtNextFetch :
    (at8000 [0x8D, 0x00, 0x80] []).fault = none ∧
    decode (bytesAtPc (at8000 [0x8D, 0x00, 0x80] [])) = .ok (.sta (.abs 0x8000), []) ∧
    ∃ t, step (at8000 [0x8D, 0x00, 0x80] []) = .next t ∧
      ∃ u : State, u.mem = t.mem ∧ phys u.pc = phys 0x8000 :=
  ⟨rfl, rfl, _, rfl, { at8000 [0x8D, 0x00, 0x80] [] with mem := _ }, rfl, rfl⟩

end Sys2Proof.Tests
end

section
/-! The status byte in bits and in numbers (10_state.md R37, R38), where it goes on the stack, and the inspection
port (R50). -/

namespace Sys2Proof

theorem bitAt_or (v w : Byte) (j : Nat) : bitAt (v ||| w) j = (bitAt v j || bitAt w j) :=
  BitVec.getLsbD_or

theorem bitAt_xor (v w : Byte) (j : Nat) : bitAt (v ^^^ w) j = (bitAt v j ^^ bitAt w j) :=
  BitVec.getLsbD_xor

/-- `b << i` (R37) has `b` at bit `i` and 0 elsewhere. -/
theorem bitAt_bitTo (b : Bool) (i : Nat) {j : Nat} (hj : j < 8) :
    bitAt (bitTo b i) j = (decide (j = i) && b) := by
  simp only [bitAt, bitTo, BitVec.getLsbD_shiftLeft, BitVec.getLsbD_setWidth, BitVec.getLsbD_ofBool]
  by_cases h : j = i
  · simp [h, show i < 8 by omega]
  · have hji : j < i ∨ j - i ≠ 0 := by omega
    rcases hji with hlt | hne
    · simp [h, hlt]
    · simp [h, hne]

/-- A byte is the sum of its bits. -/
theorem toNat_eq_sum_bits (v : Byte) :
    v.toNat = 128 * (bitAt v 7).toNat + 64 * (bitAt v 6).toNat + 32 * (bitAt v 5).toNat +
      16 * (bitAt v 4).toNat + 8 * (bitAt v 3).toNat + 4 * (bitAt v 2).toNat +
      2 * (bitAt v 1).toNat + (bitAt v 0).toNat := by
  have hv := v.isLt
  simp only [bitAt, BitVec.getLsbD, Nat.toNat_testBit]
  omega

end Sys2Proof

namespace Sys2Proof.Machine

/-! ### The bits of the status image -/

/-- Bit `j` of the image (R37): only the field that stands there counts. -/
theorem bitAt_image (f : Flags) (b : Bool) {j : Nat} (hj : j < 8) :
    bitAt (f.image b) j = (decide (j = 7) && f.n || decide (j = 6) && f.v || decide (j = 5) && true ||
      decide (j = 4) && b || decide (j = 3) && f.d || decide (j = 2) && f.i || decide (j = 1) && f.z ||
      decide (j = 0) && f.c) := by
  simp only [Flags.image, bitAt_or, bitAt_bitTo _ _ hj]

@[simp] theorem image_bit7 (f : Flags) (b : Bool) : bitAt (f.image b) 7 = f.n := by simp [bitAt_image]
@[simp] theorem image_bit6 (f : Flags) (b : Bool) : bitAt (f.image b) 6 = f.v := by simp [bitAt_image]
@[simp] theorem image_bit5 (f : Flags) (b : Bool) : bitAt (f.image b) 5 = true := by simp [bitAt_image]
@[simp] theorem image_bit4 (f : Flags) (b : Bool) : bitAt (f.image b) 4 = b := by simp [bitAt_image]
@[simp] theorem image_bit3 (f : Flags) (b : Bool) : bitAt (f.image b) 3 = f.d := by simp [bitAt_image]
@[simp] theorem image_bit2 (f : Flags) (b : Bool) : bitAt (f.image b) 2 = f.i := by simp [bitAt_image]
@[simp] theorem image_bit1 (f : Flags) (b : Bool) : bitAt (f.image b) 1 = f.z := by simp [bitAt_image]
@[simp] theorem image_bit0 (f : Flags) (b : Bool) : bitAt (f.image b) 0 = f.c := by simp [bitAt_image]

theorem image_toNat (f : Flags) (b : Bool) :
    (f.image b).toNat = 128 * f.n.toNat + 64 * f.v.toNat + 32 + 16 * b.toNat + 8 * f.d.toNat +
      4 * f.i.toNat + 2 * f.z.toNat + f.c.toNat := by
  rw [toNat_eq_sum_bits]
  simp

/-! ### Loading the flags -/

/-- Loading undoes the image, whatever break bit it has (R38). -/
@[simp] theorem ofImage_image (f : Flags) (b : Bool) : Flags.ofImage (f.image b) = f := by
  simp [Flags.ofImage]

/-- Bytes that agree but for bits 5 and 4 load the same flags. -/
theorem ofImage_congr {v w : Byte} (h : ∀ i < 8, i ≠ 5 → i ≠ 4 → bitAt v i = bitAt w i) :
    Flags.ofImage v = Flags.ofImage w := by
  simp [Flags.ofImage, h]

/-- The mask of bits 5 and 4 has no other bit. -/
theorem bitAt_mask54 : ∀ i < 8, i ≠ 5 → i ≠ 4 → bitAt 0x30 i = false := by decide

theorem ofImage_xor_mask54 (v : Byte) : Flags.ofImage (v ^^^ 0x30) = Flags.ofImage v :=
  ofImage_congr fun i hi h5 h4 => by rw [bitAt_xor, bitAt_mask54 i hi h5 h4, Bool.xor_false]

theorem ofImage_or_mask54 (v : Byte) : Flags.ofImage (v ||| 0x30) = Flags.ofImage v :=
  ofImage_congr fun i hi h5 h4 => by rw [bitAt_or, bitAt_mask54 i hi h5 h4, Bool.or_false]

/-! ### The status byte on the stack -/

@[simp] theorem read8_of_push_same (s : State) (v : Byte) : (s.push v).read8 (stackAddr s.sp) = v := by
  simp [read8_of_push]

/-- Trap entry leaves `P_image(1)` in the third stack byte (60_exceptions.md R270). -/
theorem enterTrap_read8_status (s : State) (ret : Addr) :
    (s.enterTrap ret).read8 (stackAddr (s.sp - 2)) = s.p.image true := by
  have hsp : s.sp - 2 = (s.push16 ret).sp := by rw [push16_sp]; bv_omega
  calc (s.enterTrap ret).read8 (stackAddr (s.sp - 2))
      = ((s.push16 ret).push (s.p.image true)).read8 (stackAddr (s.push16 ret).sp) := by
        rw [hsp, state_read8, enterTrap_mem, state_read8]
    _ = s.p.image true := read8_of_push_same _ _

/-! ### The statements -/

/-- Settles O41: the image in numbers is the sum of its bits, and the pushed byte reads back. -/
theorem statusImageLayout : Obligations.StatusImageLayout := by
  refine ⟨fun f b => ⟨image_toNat f b, image_bit5 f b⟩, fun s => ⟨?php, fun pad => ?brk, rfl⟩⟩
  case php => exact ⟨_, exec_php s, read8_of_push_same s _⟩
  case brk => exact ⟨_, exec_brk pad s, enterTrap_read8_status s _⟩

/-- Settles O42: the six flags are bits of the loaded byte other than 5 and 4, each where the image puts it. -/
theorem statusLoadIgnoresBreakAndBitFive : Obligations.StatusLoadIgnoresBreakAndBitFive := by
  refine ⟨fun _ => rfl, fun v => ⟨ofImage_xor_mask54 v, ofImage_or_mask54 v⟩, ofImage_image, fun s => ⟨?plp, ?rti⟩⟩
  case plp => exact ⟨_, exec_plp s, by rw [pull_fst]⟩
  case rti => exact ⟨_, exec_rti s, by rw [returnFromTrap_p, pull_fst]⟩

/-- Settles O57: on a running machine `peek` reads as `read8` does and `inspect` reports the fields and `P_image(0)`,
whose bits 5 and 4 are 1 and 0. -/
theorem inspectionChangesNothing : Obligations.InspectionChangesNothing := by
  refine fun s => ⟨fun _ => rfl, inspect s, rfl, rfl, rfl, rfl, rfl, rfl, rfl, rfl, ?bit5, ?bit4⟩
  case bit5 => exact image_bit5 s.p false
  case bit4 => exact image_bit4 s.p false

end Sys2Proof.Machine
end

section
/-! The memory bus (20_memory.md): what a byte write changes, and the two bytes of a word read (R61, R63, R64). -/

namespace Sys2Proof.Machine

/-! ### Byte writes -/

/-- A byte write reaches the address and its mirrors, and no other address (R63). -/
theorem stored_write8 (s : State) (a : Addr) (v : Byte) : Stored [(a, v)] s (s.write8 a v) :=
  fun j => read8_of_write8 s a j v

/-- A byte write changes no register, flag, latch or parameter (R63). -/
theorem frame_write8 (s : State) (a : Addr) (v : Byte) : Frame { mem := true } s (s.write8 a v) := by
  simp [Frame]

/-! ### Word reads -/

/-- Addresses of one physical cell read alike (R62). -/
theorem read8_eq_of_phys_eq (s : State) {a b : Addr} (h : phys a = phys b) : s.read8 a = s.read8 b :=
  congrArg (fun c : Addr => s.mem.get c.toNat) h

/-- The high byte of a word read is that of the next address, mapped on its own (R64). -/
theorem highByte_read16 (s : State) (a : Addr) : highByte (s.read16 a) = s.read8 (a + 1) := by
  rw [state_read16, highByte_word]

/-- The next address modulo 65536, in numbers (R64). -/
theorem addr_succ_eq_ofNat (a : Addr) : a + 1 = BitVec.ofNat 16 (a.toNat + 1) := by
  apply BitVec.eq_of_toNat_eq
  simp

/-- A word read in numbers: little-endian, the second address modulo 65536 (R64). -/
theorem read16_toNat (s : State) (a : Addr) :
    (s.read16 a).toNat = 256 * (s.read8 (BitVec.ofNat 16 (a.toNat + 1))).toNat + (s.read8 a).toNat := by
  rw [state_read16, word_toNat, addr_succ_eq_ofNat]

/-! ### The statements -/

/-- Settles O17: the byte write is read back at the address and its mirrors, and its frame is memory alone. -/
theorem byteWriteChangesOneCell : Obligations.ByteWriteChangesOneCell :=
  fun s a v => ⟨stored_write8 s a v, frame_write8 s a v⟩

/-- Settles O19: the word is that of its two bytes. At the three edges the next address is a mirror of 0x0000, the
first one without mirrors, and 0x0000 by the wrap. -/
theorem wordReadMapsEachByteOnItsOwn : Obligations.WordReadMapsEachByteOnItsOwn := by
  refine fun s => ⟨read16_toNat s, ?mirror, ?firstUnmirrored, ?wrap⟩
  case mirror =>
    have hcell : phys (0x07FF + 1) = phys 0x0000 := by decide
    rw [highByte_read16, read8_eq_of_phys_eq s hcell]
  case firstUnmirrored => exact highByte_read16 s 0x1FFF
  case wrap => exact highByte_read16 s 0xFFFF

/-- Settles O16: the mapping of R61 in numbers. -/
theorem addressesBelow2000AreMirrored : Obligations.AddressesBelow2000AreMirrored := phys_toNat

end Sys2Proof.Machine
end

section
/-! Effective addresses in numbers (40_execution.md R126, R129) and the two pointer reads (R127, R128). -/

namespace Sys2Proof

/-- The zero-page address of the next byte wraps within the zero page (R127). -/
theorem zext16_succ_eq_ofNat (z : Byte) : zext16 (z + 1) = BitVec.ofNat 16 ((z.toNat + 1) % 256) := by
  apply BitVec.eq_of_toNat_eq
  have hone : (1 : Byte).toNat = 1 := rfl
  rw [zext16_toNat, BitVec.toNat_add, BitVec.toNat_ofNat, hone]
  omega

theorem zext16_eq_ofNat (b : Byte) : zext16 b = BitVec.ofNat 16 b.toNat := by
  apply BitVec.eq_of_toNat_eq
  rw [zext16_toNat, BitVec.toNat_ofNat]
  omega

/-- The page mask of R128 keeps the high byte where `word` puts it. -/
theorem and_pageMask_eq_shiftLeft (p : Addr) : p &&& (0xFF00 : Addr) = (highByte p).setWidth 16 <<< 8 := by
  have hmask : ∀ i (hi : i < 16), (0xFF00 : Addr)[i] = decide (8 ≤ i) := by decide
  ext i hi
  rw [BitVec.getElem_and, hmask i hi]
  by_cases hlow : i < 8
  · simp [hlow]
  · simp [highByte, hlow, show 8 ≤ i by omega, show i - 8 < 8 by omega, BitVec.getLsbD_eq_getElem hi]

/-- Putting a byte into the page of `p` is making a word of that byte and the high byte of `p` (R128). -/
theorem and_pageMask_or_zext16 (p : Addr) (b : Byte) : (p &&& (0xFF00 : Addr)) ||| zext16 b = word (highByte p) b := by
  rw [and_pageMask_eq_shiftLeft]
  rfl

/-- The next byte within the page of `p`, in numbers (R128). -/
theorem pageSucc_eq_ofNat (p : Addr) :
    (p &&& (0xFF00 : Addr)) ||| zext16 (lowByte (p + 1)) =
      BitVec.ofNat 16 (p.toNat / 256 * 256 + (p.toNat + 1) % 256) := by
  apply BitVec.eq_of_toNat_eq
  have hp := p.isLt
  have hone : (1 : Addr).toNat = 1 := rfl
  rw [and_pageMask_or_zext16, word_toNat, highByte_toNat, lowByte_toNat, BitVec.toNat_add, BitVec.toNat_ofNat, hone]
  omega

end Sys2Proof

namespace Sys2Proof.Machine

/-! ### Index sums -/

/-- The zero-page index sum modulo 256 (R126). -/
theorem zpIndexed_toNat (b index : Byte) : (zpIndexed b index).toNat = (b.toNat + index.toNat) % 256 :=
  BitVec.toNat_add b index

theorem zpIndexed_eq_ofNat (b index : Byte) : zpIndexed b index = BitVec.ofNat 8 (b.toNat + index.toNat) := by
  apply BitVec.eq_of_toNat_eq
  rw [zpIndexed_toNat, BitVec.toNat_ofNat]

/-- The 16-bit index sum: the index is an unsigned byte, and the sum is modulo 65536 (R129). -/
theorem indexed_toNat (base : Addr) (index : Byte) :
    (indexed base index).toNat = (base.toNat + index.toNat) % 65536 := by
  rw [indexed, BitVec.toNat_add, zext16_toNat]

/-! ### The pointer reads -/

theorem zpRead16_of_wrap {s : State} (h : s.cfg.zpPointerWrap = true) (z : Byte) :
    s.zpRead16 z = word (s.read8 (zext16 (z + 1))) (s.read8 (zext16 z)) := if_pos h

theorem zpRead16_of_not_wrap {s : State} (h : ¬ s.cfg.zpPointerWrap = true) (z : Byte) :
    s.zpRead16 z = s.read16 (zext16 z) := if_neg h

theorem indRead16_of_wrap {s : State} (h : s.cfg.jmpIndPageWrap = true) (p : Addr) :
    s.indRead16 p = word (s.read8 ((p &&& (0xFF00 : Addr)) ||| zext16 (lowByte (p + 1)))) (s.read8 p) := if_pos h

theorem indRead16_of_not_wrap {s : State} (h : ¬ s.cfg.jmpIndPageWrap = true) (p : Addr) :
    s.indRead16 p = s.read16 p := if_neg h

/-! ### The statements -/

/-- Settles O26: the default reads the word at `p`, and with the parameter the next byte is put into the page of `p`. -/
theorem jumpIndirectPointerRead : Obligations.JumpIndirectPointerRead := by
  intro p s
  split
  · next hwrap => rw [indRead16_of_wrap hwrap, pageSucc_eq_ofNat]
  · next hwrap => rw [indRead16_of_not_wrap hwrap, state_read16, addr_succ_eq_ofNat]

/-- Settles O23: the index sum is one byte, and `zext16` keeps its value. -/
theorem zeroPageIndexWrapsInTheZeroPage : Obligations.ZeroPageIndexWrapsInTheZeroPage := by
  refine fun b s => ⟨zext16_toNat b, ?zpx, ?zpy, ?izx⟩
  case zpx => exact (zext16_toNat _).trans (zpIndexed_toNat b s.x)
  case zpy => exact (zext16_toNat _).trans (zpIndexed_toNat b s.y)
  case izx => exact congrArg s.zpRead16 (zpIndexed_eq_ofNat b s.x)

/-- Settles O24: with the parameter the next byte's address is a byte sum, without it an address sum. -/
theorem zeroPagePointerRead : Obligations.ZeroPagePointerRead := by
  intro z s
  split
  · next hwrap => rw [zpRead16_of_wrap hwrap, zext16_succ_eq_ofNat, zext16_eq_ofNat]
  · next hwrap => rw [zpRead16_of_not_wrap hwrap, state_read16, addr_succ_eq_ofNat, zext16_toNat, zext16_eq_ofNat]

/-- Settles O25: each of the three addresses is the 16-bit index sum on its base. -/
theorem indexedAddressesWrapAtSixteenBits : Obligations.IndexedAddressesWrapAtSixteenBits :=
  fun w b s => ⟨rfl, indexed_toNat w s.x, indexed_toNat w s.y, indexed_toNat (s.zpRead16 b) s.y⟩

end Sys2Proof.Machine
end

section
/-! Addition into A and comparison (41_arithmetic.md): sums, carries and signed overflow in numbers (40_execution.md
R133 to R137), what each of the two operations writes, and how the decoder finds the opcodes of read instructions. -/

namespace Sys2Proof

/-- A signed byte is its unsigned value less 256 where bit 7 is set. -/
theorem toInt_eq_toNat_sub (v : Byte) : v.toInt = (v.toNat : Int) - if 128 ≤ v.toNat then 256 else 0 := by
  rw [BitVec.toInt_eq_toNat_cond]
  split <;> split <;> omega

/-- The one's complement of a signed byte. -/
theorem toInt_not_eq (m : Byte) : (~~~m).toInt = -m.toInt - 1 := by
  have hm := m.isLt
  rw [toInt_eq_toNat_sub, toInt_eq_toNat_sub, BitVec.toNat_not]
  split <;> split <;> omega

/-- The mask 0x80 tests bit 7. -/
theorem and_signMask_beq_zero (v : Byte) : (v &&& 0x80 == 0) = !bitAt v 7 := by
  have hmask : (0x80 : Byte) = BitVec.twoPow 8 7 := rfl
  rw [hmask, BitVec.and_twoPow, ← bitAt]
  cases bitAt v 7 <;> rfl

end Sys2Proof

namespace Sys2Proof.Machine

/-! ### Opcodes -/

/-- The instruction of an opcode, from its cell of the map (R96). -/
theorem decodeBytes_of_mapCell {op : Byte} {k : Kind} {m : Mode} (h : mapCell op = (k, m)) (b1 b2 : Byte) :
    decodeBytes op b1 b2 = assemble op k m b1 b2 := by
  rw [decodeBytes, h]

theorem hasOpcodes_cons {op : Byte} {f : Byte → Byte → Instr} {l : List (Byte × (Byte → Byte → Instr))} :
    HasOpcodes ((op, f) :: l) ↔ (∀ b1 b2, decodeBytes op b1 b2 = f b1 b2) ∧ HasOpcodes l :=
  List.forall_mem_cons

theorem hasOpcodes_nil : HasOpcodes [] := fun _ h => absurd h List.not_mem_nil

/-- A kind whose operand is a read operand has eight opcodes where the map has it under the eight modes. -/
theorem hasEightModes_of_mapCell {f : Src → Instr} {k : Kind} {imm zp zpx abs absx absy izx izy : Byte}
    (hf : ∀ op m b1 b2, assemble op k m b1 b2 = ((Src.ofMode m b1 b2).map f).getD (.invalid op))
    (hcells : [imm, zp, zpx, abs, absx, absy, izx, izy].map mapCell =
      [(k, .imm), (k, .zp), (k, .zpx), (k, .abs), (k, .absx), (k, .absy), (k, .izx), (k, .izy)]) :
    HasEightModes f imm zp zpx abs absx absy izx izy := by
  have hread {op : Byte} {m : Mode} (h : mapCell op = (k, m)) (b1 b2 : Byte) :
      decodeBytes op b1 b2 = ((Src.ofMode m b1 b2).map f).getD (.invalid op) := by
    rw [decodeBytes_of_mapCell h, hf]
  simp only [List.map_cons, List.map_nil, List.cons.injEq, and_true] at hcells
  obtain ⟨himm, hzp, hzpx, habs, habsx, habsy, hizx, hizy⟩ := hcells
  simp only [HasEightModes, hasOpcodes_cons]
  exact ⟨hread himm, hread hzp, hread hzpx, hread habs, hread habsx, hread habsy, hread hizx, hread hizy,
    hasOpcodes_nil⟩

/-! ### Flags of a result -/

/-- Z and N as `ZN(r)` sets them, in numbers (R133). -/
theorem znOf_of_flags {r : Byte} {t : State} (hz : t.p.z = (r == 0)) (hn : t.p.n = bitAt r 7) : ZNOf r t := by
  constructor
  · rw [hz, beq_iff_eq]
  · rw [hn, bitAt_seven, decide_eq_true_eq]

/-- V in bits: the operands agree in sign, and the result differs (R135). -/
theorem ovf_eq_bits (a m r : Byte) : ovf a m r = (!bitAt (a ^^^ m) 7 && bitAt (a ^^^ r) 7) := by
  rw [ovf, bne, and_signMask_beq_zero, and_signMask_beq_zero, Bool.not_not]

/-- V in numbers: `a` and `m` agree in sign, and `a` and `r` do not (R135). -/
theorem ovf_eq_true_iff (a m r : Byte) :
    ovf a m r = true ↔ (128 ≤ a.toNat ↔ 128 ≤ m.toNat) ∧ ¬ (128 ≤ a.toNat ↔ 128 ≤ r.toNat) := by
  rw [ovf_eq_bits, bitAt_xor, bitAt_xor, bitAt_seven, bitAt_seven, bitAt_seven]
  simp only [Bool.and_eq_true, Bool.not_eq_true', ← Bool.not_eq_true, Bool.xor_iff_ne, ne_eq, not_not,
    decide_eq_decide]

/-- V of a sum is signed overflow: the signed sum is outside -128 to 127 (R135). -/
theorem ovf_add8_iff (a m : Byte) (c : Bool) :
    ovf a m (add8 a m c).1 = true ↔
      a.toInt + m.toInt + c.toNat < -128 ∨ 127 < a.toInt + m.toInt + c.toNat := by
  have ha := a.isLt
  have hm := m.isLt
  have hc := Bool.toNat_le c
  rw [ovf_eq_true_iff, add8_fst, sum9, toInt_eq_toNat_sub a, toInt_eq_toNat_sub m]
  split <;> split <;> omega

/-! ### Addition into A -/

theorem addToA_a_toNat (m : Byte) (s : State) :
    (addToA m s).a.toNat = (s.a.toNat + m.toNat + s.p.c.toNat) % 256 := add8_fst s.a m s.p.c

theorem addToA_c_iff (m : Byte) (s : State) :
    (addToA m s).p.c = true ↔ 256 ≤ s.a.toNat + m.toNat + s.p.c.toNat := by
  rw [addToA_p, add8_snd, decide_eq_true_eq, sum9]

theorem addToA_v_eq_bits (m : Byte) (s : State) :
    (addToA m s).p.v = (!(s.a ^^^ m).getLsbD 7 && (s.a ^^^ (addToA m s).a).getLsbD 7) :=
  ovf_eq_bits s.a m (addToA m s).a

theorem addToA_v_iff (m : Byte) (s : State) :
    (addToA m s).p.v = true ↔
      s.a.toInt + m.toInt + s.p.c.toNat < -128 ∨ 127 < s.a.toInt + m.toInt + s.p.c.toNat :=
  ovf_add8_iff s.a m s.p.c

theorem znOf_addToA (m : Byte) (s : State) : ZNOf (addToA m s).a (addToA m s) := znOf_of_flags rfl rfl

theorem frame_addToA (m : Byte) (s : State) :
    Frame { a := true, c := true, v := true, z := true, n := true } s (addToA m s) := by
  simp [Frame, state_read8]

/-! ### Subtraction: the byte added is the complement (R161) -/

theorem addToA_not_a_toNat (m : Byte) (s : State) :
    ((addToA (~~~m) s).a.toNat : Int) = ((s.a.toNat : Int) - m.toNat - ↑(1 - s.p.c.toNat)) % 256 := by
  have hm := m.isLt
  have hc := Bool.toNat_le s.p.c
  rw [addToA_a_toNat, not_toNat]
  omega

theorem addToA_not_c_iff (m : Byte) (s : State) :
    (addToA (~~~m) s).p.c = true ↔ m.toNat + (1 - s.p.c.toNat) ≤ s.a.toNat := by
  have hm := m.isLt
  have hc := Bool.toNat_le s.p.c
  rw [addToA_c_iff, not_toNat]
  omega

theorem addToA_not_v_iff (m : Byte) (s : State) :
    (addToA (~~~m) s).p.v = true ↔
      s.a.toInt - m.toInt - ↑(1 - s.p.c.toNat) < -128 ∨ 127 < s.a.toInt - m.toInt - ↑(1 - s.p.c.toNat) := by
  have hc := Bool.toNat_le s.p.c
  rw [addToA_v_iff, toInt_not_eq]
  omega

/-! ### Comparison -/

/-- Comparing adds the one's complement and 1, which is the difference (R137). -/
theorem add8_not_true_fst (reg m : Byte) : (add8 reg (~~~m) true).1 = reg - m := by
  have hm := m.isLt
  apply BitVec.eq_of_toNat_eq
  rw [add8_fst, sum9, not_toNat, BitVec.toNat_sub, Bool.toNat_true]
  omega

/-- The carry of a comparison is "no borrow" (R137). -/
theorem add8_not_true_snd (reg m : Byte) : (add8 reg (~~~m) true).2 = decide (m.toNat ≤ reg.toNat) := by
  have hm := m.isLt
  rw [add8_snd, sum9, not_toNat, Bool.toNat_true, decide_eq_decide]
  omega

theorem frame_compareWith (reg m : Byte) (s : State) :
    Frame { c := true, z := true, n := true } s (compareWith reg m s) := by
  simp [Frame, state_read8]

theorem compared_compareWith (reg m : Byte) (s : State) : Compared reg m s (compareWith reg m s) := by
  refine ⟨?carry, ?zero, ?negative, frame_compareWith reg m s⟩
  case carry => rw [compareWith_p, cmp_c, add8_not_true_snd, decide_eq_true_eq]
  case zero => rw [compareWith_p, cmp_z, add8_not_true_fst, beq_iff_eq]; exact sub_eq_zero
  case negative => rw [compareWith_p, cmp_n, add8_not_true_fst, bitAt_seven, decide_eq_true_eq]

/-! ### Flags take no part in loading an operand -/

/-- No flag steers the resolver, so an operand loads the same byte whatever the flags hold (R125). -/
theorem loadSrc_setFlags (o : Src) (s : State) (p : Flags) : loadSrc o { s with p := p } = loadSrc o s := by
  cases o with
  | imm b => rfl
  | mem m => cases m <;> rfl

theorem addToA_withD (m : Byte) (s : State) (b : Bool) : addToA m (s.withD b) = (addToA m s).withD b := rfl

/-! ### The statements -/

/-- Settles O28: ADC is `addToA` of the loaded byte. -/
theorem adcAddsWithCarry : Obligations.AdcAddsWithCarry := by
  refine ⟨hasEightModes_of_mapCell (fun _ _ _ _ => rfl) rfl, fun o s => ?_⟩
  refine ⟨_, exec_adc o s, ⟨?result, ?carry, ?formula, ?overflow⟩, znOf_addToA _ s, frame_addToA _ s⟩
  case result => exact addToA_a_toNat _ s
  case carry => exact addToA_c_iff _ s
  case formula => exact addToA_v_eq_bits _ s
  case overflow => exact addToA_v_iff _ s

/-- Settles O29: SBC is `addToA` of the complement of the loaded byte. -/
theorem sbcSubtractsWithBorrow : Obligations.SbcSubtractsWithBorrow := by
  refine ⟨hasEightModes_of_mapCell (fun _ _ _ _ => rfl) rfl, fun o s => ?_⟩
  refine ⟨_, exec_sbc o s, ⟨?result, ?carry, ?formula, ?overflow⟩, znOf_addToA _ s, frame_addToA _ s⟩
  case result => exact addToA_not_a_toNat _ s
  case carry => exact addToA_not_c_iff _ s
  case formula => exact addToA_v_eq_bits _ s
  case overflow => exact addToA_not_v_iff _ s

/-- Settles O30: the three are `compareWith` of A, X and Y. -/
theorem compareSetsCarryZeroNegative : Obligations.CompareSetsCarryZeroNegative := by
  refine ⟨hasEightModes_of_mapCell (fun _ _ _ _ => rfl) rfl, ?opcodes, fun o s => ⟨?cmp, ?cpx, ?cpy⟩⟩
  case opcodes =>
    simp only [hasOpcodes_cons]
    exact ⟨fun _ _ => rfl, fun _ _ => rfl, fun _ _ => rfl, fun _ _ => rfl, fun _ _ => rfl, fun _ _ => rfl,
      hasOpcodes_nil⟩
  case cmp => exact ⟨_, exec_cmp o s, compared_compareWith s.a _ s⟩
  case cpx => exact ⟨_, exec_cpx o s, compared_compareWith s.x _ s⟩
  case cpy => exact ⟨_, exec_cpy o s, compared_compareWith s.y _ s⟩

/-- Settles O15: the operand loads the same byte, and `addToA` reads no flag but C. -/
theorem decimalFlagDoesNotAffectArithmetic : Obligations.DecimalFlagDoesNotAffectArithmetic := by
  intro o s b
  have hload : loadSrc o (s.withD b) = loadSrc o s := loadSrc_setFlags o s _
  refine ⟨⟨_, exec_adc o s, ?adc⟩, ⟨_, exec_sbc o s, ?sbc⟩⟩
  case adc => rw [exec_adc, hload, addToA_withD]
  case sbc => rw [exec_sbc, hload, addToA_withD]

end Sys2Proof.Machine
end

section
/-! Logical instructions (42_logical.md): a result that goes into A with its Z and N, and a test that writes Z, N and V
alone. -/

namespace Sys2Proof.Machine

/-! ### What the two kinds of write leave unchanged -/

theorem znOf_setA (r : Byte) (s : State) : ZNOf (setA r s).a (setA r s) := znOf_of_flags rfl rfl

theorem frame_setA (r : Byte) (s : State) : Frame { a := true, z := true, n := true } s (setA r s) := by
  simp [Frame, state_read8]

theorem frame_setFlagsZNV (z n v : Bool) (s : State) :
    Frame { z := true, n := true, v := true } s { s with p := { s.p with z := z, n := n, v := v } } := by
  simp [Frame, state_read8]

/-! ### The statements -/

/-- Settles O31: the three are `setA` of the bitwise result. -/
theorem logicalCombinesIntoA : Obligations.LogicalCombinesIntoA := by
  refine ⟨hasEightModes_of_mapCell (fun _ _ _ _ => rfl) rfl, hasEightModes_of_mapCell (fun _ _ _ _ => rfl) rfl,
    hasEightModes_of_mapCell (fun _ _ _ _ => rfl) rfl, fun o s => ⟨?and, ?ora, ?eor⟩⟩
  case and => exact ⟨_, exec_and o s, setA_a _ s, znOf_setA _ s, frame_setA _ s⟩
  case ora => exact ⟨_, exec_ora o s, setA_a _ s, znOf_setA _ s, frame_setA _ s⟩
  case eor => exact ⟨_, exec_eor o s, setA_a _ s, znOf_setA _ s, frame_setA _ s⟩

/-- Settles O32: BIT takes Z from `A & m`, and its N and V are by definition bits 7 and 6 of the operand. -/
theorem bitTestsMemoryAgainstA : Obligations.BitTestsMemoryAgainstA := by
  refine ⟨?opcodes, fun m s => ⟨_, exec_bit m s, beq_iff_eq, rfl, rfl, frame_setFlagsZNV _ _ _ s⟩⟩
  case opcodes =>
    simp only [hasOpcodes_cons]
    exact ⟨fun _ _ => rfl, fun _ _ => rfl, hasOpcodes_nil⟩

end Sys2Proof.Machine
end

section
/-! Shifts and rotates (43_shift_rotate.md): the result byte of each in numbers, what storing a result writes, and how
the decoder finds the opcodes of the four. -/

namespace Sys2Proof

theorem bitTo_toNat (b : Bool) {i : Nat} (hi : i < 8) : (bitTo b i).toNat = 2 ^ i * b.toNat := by
  cases b with
  | false => simp [bitTo]
  | true => simpa [bitTo, Nat.shiftLeft_eq] using Nat.pow_lt_pow_right (by decide) hi

/-- Setting a bit that is 0 adds its weight. -/
theorem or_bitTo_toNat {v : Byte} {i : Nat} (b : Bool) (hi : i < 8) (hv : bitAt v i = false) :
    (v ||| bitTo b i).toNat = v.toNat + 2 ^ i * b.toNat := by
  have hdisj : v &&& bitTo b i = 0#8 := by
    refine BitVec.eq_of_getLsbD_eq fun j hj => ?_
    rw [BitVec.getLsbD_and, ← bitAt, ← bitAt, bitAt_bitTo b i hj]
    by_cases hji : j = i
    · simp [hji, hv]
    · simp [hji]
  rw [← BitVec.add_eq_or_of_and_eq_zero _ _ hdisj, BitVec.toNat_add_of_and_eq_zero hdisj, bitTo_toNat b hi]

end Sys2Proof

namespace Sys2Proof.Machine

/-! ### Opcodes -/

/-- A kind whose operand is a shift operand has five opcodes where the map has it under the five modes. -/
theorem hasShiftModes_of_mapCell {f : RmwOpnd → Instr} {k : Kind} {acc zp zpx abs absx : Byte}
    (hf : ∀ op m b1 b2, assemble op k m b1 b2 = ((RmwOpnd.ofMode m b1 b2).map f).getD (.invalid op))
    (hcells : [acc, zp, zpx, abs, absx].map mapCell = [(k, .acc), (k, .zp), (k, .zpx), (k, .abs), (k, .absx)]) :
    HasShiftModes f acc zp zpx abs absx := by
  have hshift {op : Byte} {m : Mode} (h : mapCell op = (k, m)) (b1 b2 : Byte) :
      decodeBytes op b1 b2 = ((RmwOpnd.ofMode m b1 b2).map f).getD (.invalid op) := by
    rw [decodeBytes_of_mapCell h, hf]
  simp only [List.map_cons, List.map_nil, List.cons.injEq, and_true] at hcells
  obtain ⟨hacc, hzp, hzpx, habs, habsx⟩ := hcells
  simp only [HasShiftModes, hasOpcodes_cons]
  exact ⟨hshift hacc, hshift hzp, hshift hzpx, hshift habs, hshift habsx, hasOpcodes_nil⟩

/-! ### The result bytes (R181 to R184) -/

theorem shiftAsl_fst_toNat (v : Byte) : (shiftAsl v).1.toNat = 2 * v.toNat % 256 := by
  rw [shiftAsl, BitVec.toNat_shiftLeft, Nat.shiftLeft_eq, pow_one, Nat.mul_comm]

theorem shiftLsr_fst_toNat (v : Byte) : (shiftLsr v).1.toNat = v.toNat / 2 := by
  rw [shiftLsr, BitVec.toNat_ushiftRight, Nat.shiftRight_eq_div_pow, pow_one]

/-- The bit that ROL fills is the one that ASL leaves 0. -/
theorem shiftRol_fst_toNat (v : Byte) (c : Bool) : (shiftRol v c).1.toNat = 2 * v.toNat % 256 + c.toNat := by
  have hfree : bitAt (v <<< 1) 0 = false := by simp [bitAt]
  calc (shiftRol v c).1.toNat = (shiftAsl v).1.toNat + 2 ^ 0 * c.toNat := or_bitTo_toNat c (by decide) hfree
    _ = 2 * v.toNat % 256 + c.toNat := by rw [shiftAsl_fst_toNat, pow_zero, one_mul]

/-- The bit that ROR fills is the one that LSR leaves 0. -/
theorem shiftRor_fst_toNat (v : Byte) (c : Bool) : (shiftRor v c).1.toNat = v.toNat / 2 + 128 * c.toNat := by
  have hfree : bitAt (v >>> 1) 7 = false := by simp [bitAt]
  calc (shiftRor v c).1.toNat = (shiftLsr v).1.toNat + 2 ^ 7 * c.toNat := or_bitTo_toNat c (by decide) hfree
    _ = v.toNat / 2 + 128 * c.toNat := congrArg (· + 128 * c.toNat) (shiftLsr_fst_toNat v)

/-! ### What storing a result writes (R180) -/

theorem znOf_storeShift (o : RmwOpnd) (r : ShiftResult) (s : State) : ZNOf r.1 (storeShift o r s) := by
  apply znOf_of_flags <;> rw [storeShift_p]

theorem frame_storeShift_acc (r : ShiftResult) (s : State) :
    Frame { a := true, c := true, z := true, n := true } s (storeShift .acc r s) := by
  simp [Frame, state_read8]

theorem frame_storeShift_mem (m : MemMode) (r : ShiftResult) (s : State) :
    Frame { c := true, z := true, n := true, mem := true } s (storeShift (.mem m) r s) := by
  simp [Frame]

/-- The cell is that of the effective address before the shift (R180). -/
theorem stored_storeShift_mem (m : MemMode) (r : ShiftResult) (s : State) :
    Stored [(effAddr m s, r.1)] s (storeShift (.mem m) r s) :=
  stored_write8 s (effAddr m s) r.1

/-- An instruction that loads its operand, shifts it by `g` and stores the result is a shift with the values of `g`. -/
theorem shifts_of_exec {f : RmwOpnd → Instr} {g : Byte → Bool → ShiftResult} {r : Byte → Bool → Nat}
    {c : Byte → Bool}
    (hexec : ∀ o s, exec (f o) s = .next (storeShift o (g (loadRmw o s) s.p.c) s))
    (hresult : ∀ v b, (g v b).1.toNat = r v b) (hcarry : ∀ v b, (g v b).2 = c v) : Shifts f r c := by
  have hc (o : RmwOpnd) (s : State) : (storeShift o (g (loadRmw o s) s.p.c) s).p.c = c (loadRmw o s) := by
    rw [storeShift_p, hcarry]
  refine fun s => ⟨⟨_, hexec .acc s, ?acc⟩, fun m => ⟨_, (g (loadMem m s) s.p.c).1, hexec (.mem m) s, ?mem⟩⟩
  case acc => exact ⟨hresult s.a s.p.c, hc .acc s, znOf_storeShift .acc _ s, frame_storeShift_acc _ s⟩
  case mem =>
    exact ⟨hresult (loadMem m s) s.p.c, stored_storeShift_mem m _ s, hc (.mem m) s, znOf_storeShift (.mem m) _ s,
      frame_storeShift_mem m _ s⟩

/-! ### The statements -/

/-- Settles O33: ASL and LSR load, shift and store, and the carry in plays no part. -/
theorem shiftsMoveOneBitIntoCarry : Obligations.ShiftsMoveOneBitIntoCarry := by
  refine ⟨hasShiftModes_of_mapCell (fun _ _ _ _ => rfl) rfl, hasShiftModes_of_mapCell (fun _ _ _ _ => rfl) rfl, ?asl,
    ?lsr⟩
  case asl =>
    exact shifts_of_exec (g := fun v _ => shiftAsl v) exec_asl (fun v _ => shiftAsl_fst_toNat v) fun _ _ => rfl
  case lsr =>
    exact shifts_of_exec (g := fun v _ => shiftLsr v) exec_lsr (fun v _ => shiftLsr_fst_toNat v) fun _ _ => rfl

/-- Settles O34: ROL and ROR put the old carry into the bit that the shift leaves free. -/
theorem rotatesGoThroughCarry : Obligations.RotatesGoThroughCarry := by
  refine ⟨hasShiftModes_of_mapCell (fun _ _ _ _ => rfl) rfl, hasShiftModes_of_mapCell (fun _ _ _ _ => rfl) rfl, ?rol,
    ?ror⟩
  case rol => exact shifts_of_exec exec_rol shiftRol_fst_toNat fun _ _ => rfl
  case ror => exact shifts_of_exec exec_ror shiftRor_fst_toNat fun _ _ => rfl

end Sys2Proof.Machine
end

section
/-! Increments and decrements (44_incdec.md): one less of a byte in numbers, and what writing the result into a cell
or into an index register changes. -/

namespace Sys2Proof

/-- `u8(v - 1)` adds 255 modulo 256 (R191). -/
theorem byte_sub_one_toNat (v : Byte) : (v - 1).toNat = (v.toNat + 255) % 256 := by
  rw [BitVec.toNat_sub, Nat.add_comm]
  rfl

end Sys2Proof

namespace Sys2Proof.Machine

/-! ### A result byte in a cell or an index register -/

theorem znOf_setZN (r : Byte) (s : State) : ZNOf r (s.setZN r) := znOf_of_flags rfl rfl

/-- The cell is that of the effective address before the write; setting flags writes no other (R190, R191). -/
theorem stored_setZN_storeMem (m : MemMode) (r : Byte) (s : State) :
    Stored [(effAddr m s, r)] s ((storeMem m r s).setZN r) :=
  stored_write8 s (effAddr m s) r

theorem frame_setZN_storeMem (m : MemMode) (r : Byte) (s : State) :
    Frame { z := true, n := true, mem := true } s ((storeMem m r s).setZN r) := by
  simp [Frame]

theorem znOf_setX (r : Byte) (s : State) : ZNOf (setX r s).x (setX r s) := znOf_setZN r { s with x := r }

theorem frame_setX (r : Byte) (s : State) : Frame { x := true, z := true, n := true } s (setX r s) := by
  simp [Frame, state_read8]

theorem znOf_setY (r : Byte) (s : State) : ZNOf (setY r s).y (setY r s) := znOf_setZN r { s with y := r }

theorem frame_setY (r : Byte) (s : State) : Frame { y := true, z := true, n := true } s (setY r s) := by
  simp [Frame, state_read8]

/-! ### The statements -/

/-- Settles O35: both load the cell, step the byte and store it with its Z and N. -/
theorem incDecStepTheCell : Obligations.IncDecStepTheCell := by
  refine ⟨?opcodes, fun m s => ⟨⟨_, loadMem m s + 1, exec_inc m s, ?inc⟩, ⟨_, loadMem m s - 1, exec_dec m s, ?dec⟩⟩⟩
  case opcodes =>
    simp only [hasOpcodes_cons]
    exact ⟨fun _ _ => rfl, fun _ _ => rfl, fun _ _ => rfl, fun _ _ => rfl, fun _ _ => rfl, fun _ _ => rfl,
      fun _ _ => rfl, fun _ _ => rfl, hasOpcodes_nil⟩
  case inc =>
    exact ⟨BitVec.toNat_add _ 1, stored_setZN_storeMem m _ s, znOf_setZN _ _, frame_setZN_storeMem m _ s⟩
  case dec =>
    exact ⟨byte_sub_one_toNat _, stored_setZN_storeMem m _ s, znOf_setZN _ _, frame_setZN_storeMem m _ s⟩

/-- Settles O36: the four are `setX` and `setY` of the register's byte stepped by one. -/
theorem indexRegistersStepByOne : Obligations.IndexRegistersStepByOne := by
  refine ⟨?opcodes, fun s => ⟨?inx, ?iny, ?dex, ?dey⟩⟩
  case opcodes =>
    simp only [hasOpcodes_cons]
    exact ⟨fun _ _ => rfl, fun _ _ => rfl, fun _ _ => rfl, fun _ _ => rfl, hasOpcodes_nil⟩
  case inx => exact ⟨_, exec_inx s, BitVec.toNat_add s.x 1, znOf_setX _ s, frame_setX _ s⟩
  case iny => exact ⟨_, exec_iny s, BitVec.toNat_add s.y 1, znOf_setY _ s, frame_setY _ s⟩
  case dex => exact ⟨_, exec_dex s, byte_sub_one_toNat s.x, znOf_setX _ s, frame_setX _ s⟩
  case dey => exact ⟨_, exec_dey s, byte_sub_one_toNat s.y, znOf_setY _ s, frame_setY _ s⟩

end Sys2Proof.Machine
end

section
/-! Loads and stores (45_load_store.md): a load is `setA`, `setX` or `setY` of the operand's byte, a store is one byte
write at the effective address. -/

namespace Sys2Proof.Machine

/-! ### What a store changes -/

/-- A store reaches the effective address and its mirrors, and no other address (R203 to R205). -/
theorem stored_storeMem (m : MemMode) (r : Byte) (s : State) : Stored [(effAddr m s, r)] s (storeMem m r s) :=
  stored_write8 s (effAddr m s) r

/-- A store changes no register, flag, latch or parameter (R203 to R205). -/
theorem frame_storeMem (m : MemMode) (r : Byte) (s : State) : Frame { mem := true } s (storeMem m r s) :=
  frame_write8 s (effAddr m s) r

/-! ### The statements -/

/-- Settles O37: the three are `setA`, `setX` and `setY` of the loaded byte. -/
theorem loadsSetTheRegisterAndZN : Obligations.LoadsSetTheRegisterAndZN := by
  refine ⟨hasEightModes_of_mapCell (fun _ _ _ _ => rfl) rfl, ?opcodes, fun o s => ⟨?lda, ?ldx, ?ldy⟩⟩
  case opcodes =>
    simp only [hasOpcodes_cons]
    exact ⟨fun _ _ => rfl, fun _ _ => rfl, fun _ _ => rfl, fun _ _ => rfl, fun _ _ => rfl, fun _ _ => rfl,
      fun _ _ => rfl, fun _ _ => rfl, fun _ _ => rfl, fun _ _ => rfl, hasOpcodes_nil⟩
  case lda => exact ⟨_, exec_lda o s, setA_a _ s, znOf_setA _ s, frame_setA _ s⟩
  case ldx => exact ⟨_, exec_ldx o s, setX_x _ s, znOf_setX _ s, frame_setX _ s⟩
  case ldy => exact ⟨_, exec_ldy o s, setY_y _ s, znOf_setY _ s, frame_setY _ s⟩

/-- Settles O38: the three are `storeMem` of A, X and Y; the map has no instruction at 0x89. -/
theorem storesWriteOneByteAndNoFlag : Obligations.StoresWriteOneByteAndNoFlag := by
  refine ⟨?opcodes, fun m s => ⟨?sta, ?stx, ?sty⟩⟩
  case opcodes =>
    simp only [hasOpcodes_cons]
    exact ⟨fun _ _ => rfl, fun _ _ => rfl, fun _ _ => rfl, fun _ _ => rfl, fun _ _ => rfl, fun _ _ => rfl,
      fun _ _ => rfl, fun _ _ => rfl, fun _ _ => rfl, fun _ _ => rfl, fun _ _ => rfl, fun _ _ => rfl,
      fun _ _ => rfl, fun _ _ => rfl, hasOpcodes_nil⟩
  case sta => exact ⟨_, exec_sta m s, stored_storeMem m s.a s, frame_storeMem m s.a s⟩
  case stx => exact ⟨_, exec_stx m s, stored_storeMem m s.x s, frame_storeMem m s.x s⟩
  case sty => exact ⟨_, exec_sty m s, stored_storeMem m s.y s, frame_storeMem m s.y s⟩

end Sys2Proof.Machine
end

section
/-! Transfers (46_transfer.md): five are `setA`, `setX` or `setY` of the source register's byte, and TXS is a write of
SP alone. -/

namespace Sys2Proof.Machine

/-! ### What the stack pointer's write leaves unchanged -/

/-- A write of SP changes no flag and no byte of memory (R215). -/
theorem frame_setSp (v : Byte) (s : State) : Frame { sp := true } s { s with sp := v } := by
  simp [Frame, state_read8]

/-! ### The statement -/

/-- Settles O39: the byte that goes into A, X or Y is the one that Z and N are set from; TXS sets none. -/
theorem transfersMoveTheRegister : Obligations.TransfersMoveTheRegister := by
  refine ⟨?opcodes, fun s => ⟨?tax, ?tay, ?txa, ?tya, ?tsx, ?txs⟩⟩
  case opcodes =>
    simp only [hasOpcodes_cons]
    exact ⟨fun _ _ => rfl, fun _ _ => rfl, fun _ _ => rfl, fun _ _ => rfl, fun _ _ => rfl, fun _ _ => rfl,
      hasOpcodes_nil⟩
  case tax => exact ⟨_, exec_tax s, setX_x s.a s, znOf_setX s.a s, frame_setX s.a s⟩
  case tay => exact ⟨_, exec_tay s, setY_y s.a s, znOf_setY s.a s, frame_setY s.a s⟩
  case txa => exact ⟨_, exec_txa s, setA_a s.x s, znOf_setA s.x s, frame_setA s.x s⟩
  case tya => exact ⟨_, exec_tya s, setA_a s.y s, znOf_setA s.y s, frame_setA s.y s⟩
  case tsx => exact ⟨_, exec_tsx s, setX_x s.sp s, znOf_setX s.sp s, frame_setX s.sp s⟩
  case txs => exact ⟨_, exec_txs s, rfl, frame_setSp s.x s⟩

end Sys2Proof.Machine
end

section
/-! Branches (47_branch.md): the signed sum that a taken branch puts into PC, and what `branchIf` does when its flag has
the expected value and when not. -/

namespace Sys2Proof.Machine

/-! ### The target in numbers -/

/-- `u16(w + d)` with `d` read as a signed byte (R220). -/
theorem add_sext16_toNat (w : Addr) (d : Byte) :
    ((w + sext16 d).toNat : Int) = ((w.toNat : Int) + d.toInt) % 65536 := by
  have hd : ((sext16 d).toNat : Int) = d.toInt % 65536 :=
    (congrArg Int.ofNat (BitVec.toNat_ofInt (n := 16) d.toInt)).trans
      (Int.toNat_of_nonneg (Int.emod_nonneg d.toInt (by decide)))
  rw [BitVec.toNat_add, Int.natCast_emod, Int.natCast_add, hd]
  exact Int.add_emod_emod (w.toNat : Int) d.toInt 65536

/-! ### What the shared body does -/

theorem branchIf_pc_toNat (g e : Bool) (d : Byte) (s : State) :
    ((branchIf g e d s).pc.toNat : Int) = if g = e then ((s.pc.toNat : Int) + d.toInt) % 65536 else s.pc.toNat := by
  rw [branchIf_pc]
  split
  · exact add_sext16_toNat s.pc d
  · rfl

/-- Taken or not, a branch changes no register but PC, no flag and no byte of memory (R220). -/
theorem frame_branchIf (g e : Bool) (d : Byte) (s : State) : Frame { pc := true } s (branchIf g e d s) := by
  simp [Frame, state_read8]

/-- An instruction whose body is `branchIf` on a flag of the state is a branch, taken when the flag has the expected
value. -/
theorem branchRule_of_exec {opcode : Byte} {f : Byte → Instr} {flag taken : State → Bool} {e : Bool}
    (hopcode : ∀ b1 b2, decodeBytes opcode b1 b2 = f b1)
    (hexec : ∀ d s, exec (f d) s = .next (branchIf (flag s) e d s))
    (htaken : ∀ s, taken s = true ↔ flag s = e) : BranchRule opcode f taken := by
  refine ⟨hasOpcodes_cons.2 ⟨hopcode, hasOpcodes_nil⟩, fun d s => ⟨_, hexec d s, ?pc, frame_branchIf _ e d s⟩⟩
  case pc => simp only [htaken, branchIf_pc_toNat]

/-! ### The statement -/

/-- Settles O40: each branch is `branchIf` on its own flag; four expect it set and four clear (R221). -/
theorem branchesTestOneFlag : Obligations.BranchesTestOneFlag := by
  refine ⟨?bcc, ?bcs, ?beq, ?bne, ?bmi, ?bpl, ?bvc, ?bvs⟩
  case bcc => exact branchRule_of_exec (fun _ _ => rfl) exec_bcc fun _ => (Bool.not_eq_true' _).to_iff
  case bcs => exact branchRule_of_exec (fun _ _ => rfl) exec_bcs fun _ => Iff.rfl
  case beq => exact branchRule_of_exec (fun _ _ => rfl) exec_beq fun _ => Iff.rfl
  case bne => exact branchRule_of_exec (fun _ _ => rfl) exec_bne fun _ => (Bool.not_eq_true' _).to_iff
  case bmi => exact branchRule_of_exec (fun _ _ => rfl) exec_bmi fun _ => Iff.rfl
  case bpl => exact branchRule_of_exec (fun _ _ => rfl) exec_bpl fun _ => (Bool.not_eq_true' _).to_iff
  case bvc => exact branchRule_of_exec (fun _ _ => rfl) exec_bvc fun _ => (Bool.not_eq_true' _).to_iff
  case bvs => exact branchRule_of_exec (fun _ _ => rfl) exec_bvs fun _ => Iff.rfl

end Sys2Proof.Machine
end

section
/-! Stack and control (48_stack_control.md): what pushes store and what they leave unchanged, the words that are pushed
and pulled, and trap entry and return, of which the nine instructions are made. -/

namespace Sys2Proof.Machine

/-! ### Stored bytes of a sequence of pushes -/

/-- A list without the cell of `adr` leaves what it reads as. -/
theorem storedOr_of_fresh {l : List (Addr × Byte)} {adr : Addr} (h : ∀ e ∈ l, phys adr ≠ phys e.1) (old : Byte) :
    storedOr l adr old = old := by
  induction l with
  | nil => rfl
  | cons e l ih =>
    obtain ⟨hne, hl⟩ := List.forall_mem_cons.1 h
    rw [storedOr, if_neg hne, ih hl]

/-- Of two listings the first to have the cell decides. -/
theorem storedOr_append (l l' : List (Addr × Byte)) (adr : Addr) (old : Byte) :
    storedOr (l ++ l') adr old = storedOr l adr (storedOr l' adr old) := by
  induction l with
  | nil => rfl
  | cons e l ih => rw [List.cons_append, storedOr, storedOr, ih]

/-- A push stores its byte at 0x0100 + S (R140). -/
theorem stored_push (s : State) (v : Byte) : Stored [(stackAddr s.sp, v)] s (s.push v) :=
  stored_write8 s (stackAddr s.sp) v

/-- A push onto a cell that is not listed yet adds it to the list. -/
theorem Stored.push {l : List (Addr × Byte)} {s t : State} (h : Stored l s t) (v : Byte)
    (hfresh : ∀ e ∈ l, stackAddr t.sp ≠ phys e.1) : Stored (l ++ [(stackAddr t.sp, v)]) s (t.push v) := by
  intro adr
  rw [stored_push t v adr, h adr, storedOr_append]
  by_cases hadr : phys adr = stackAddr t.sp
  · simp only [storedOr, phys_stackAddr, hadr, if_true]
    exact (storedOr_of_fresh (hadr ▸ hfresh) v).symm
  · simp only [storedOr, phys_stackAddr, hadr, if_false]

/-- A word is pushed high byte first (R142). -/
theorem stored_push16 (s : State) (w : Addr) :
    Stored [(stackAddr s.sp, highByte w), (stackAddr (s.sp - 1), lowByte w)] s (s.push16 w) :=
  (stored_push s (highByte w)).push (lowByte w) (by simp)

theorem push16_sp_eq (s : State) (w : Addr) : (s.push16 w).sp = s.sp - 2 := sub_sub s.sp 1 1

/-- Trap entry pushes the return address and then the status byte (60_exceptions.md R270). -/
theorem stored_enterTrap (s : State) (ret : Addr) :
    Stored [(stackAddr s.sp, highByte ret), (stackAddr (s.sp - 1), lowByte ret), (stackAddr (s.sp - 2), s.p.image true)]
      s (s.enterTrap ret) := by
  have h := (stored_push16 s ret).push (s.p.image true) (by simp [sub_sub])
  rw [push16_sp_eq] at h
  exact h

/-! ### Trap entry and the address that BRK pushes -/

theorem enterTrap_sp_eq (s : State) (ret : Addr) : (s.enterTrap ret).sp = s.sp - 3 := by
  rw [enterTrap_sp, sub_sub, sub_sub]
  rfl

/-- A push reaches no address from 0x2000 on (R144). -/
theorem read8_of_push_of_ge (s : State) (v : Byte) {a : Addr} (h : 0x2000 ≤ a.toNat) :
    (s.push v).read8 a = s.read8 a := by
  rw [read8_of_push, phys_of_ge h, if_neg (stackAddr_ne_of_ge s.sp h)]

theorem read8_of_enterTrap_of_ge (s : State) (ret : Addr) {a : Addr} (h : 0x2000 ≤ a.toNat) :
    (s.enterTrap ret).read8 a = s.read8 a :=
  calc (s.enterTrap ret).read8 a
      = (((s.push (highByte ret)).push (lowByte ret)).push (s.p.image true)).read8 a := rfl
    _ = s.read8 a := by simp only [read8_of_push_of_ge _ _ h]

/-- The three pushes of trap entry do not reach the vector it then reads (R270). -/
theorem enterTrap_pc_eq (s : State) (ret : Addr) :
    (s.enterTrap ret).pc = word (s.read8 0xFFFF) (s.read8 0xFFFE) := by
  have hlow : (s.enterTrap ret).read8 0xFFFE = s.read8 0xFFFE := read8_of_enterTrap_of_ge s ret (by decide)
  have hhigh : (s.enterTrap ret).read8 0xFFFF = s.read8 0xFFFF := read8_of_enterTrap_of_ge s ret (by decide)
  rw [← hlow, ← hhigh]
  rfl

/-- The body of BRK starts two bytes after its opcode, so the address is counted from there (R237). -/
theorem brkReturnAddr_of_pc {s : State} {pc0 : Addr} (h : s.pc = pc0 + 2) :
    brkReturnAddr s = pc0 + s.cfg.brkPushOffset.toAddr := by
  rw [brkReturnAddr, h, add_sub_cancel_right]

/-! ### Pulled words -/

/-- A word is pulled low byte first (R142). -/
theorem pull16_fst_eq (s : State) :
    s.pull16.1 = word (s.read8 (stackAddr (s.sp + 2))) (s.read8 (stackAddr (s.sp + 1))) := by
  rw [pull16_fst, add_assoc]
  rfl

theorem pull16_sp_eq (s : State) : s.pull16.2.sp = s.sp + 2 := add_assoc s.sp 1 1

/-- The return address stands above the status byte (R271). -/
theorem returnFromTrap_pc_eq (s : State) :
    s.returnFromTrap.pc = word (s.read8 (stackAddr (s.sp + 3))) (s.read8 (stackAddr (s.sp + 2))) := by
  rw [returnFromTrap_pc, pull16_fst_eq, pull_sp, add_assoc, add_assoc]
  rfl

theorem returnFromTrap_sp_eq (s : State) : s.returnFromTrap.sp = s.sp + 3 := by
  rw [returnFromTrap_sp, add_assoc, add_assoc]
  rfl

/-! ### Frames -/

theorem frame_push (s : State) (v : Byte) : Frame { sp := true, mem := true } s (s.push v) := by
  simp [Frame]

theorem frame_setPc (s : State) (w : Addr) : Frame { pc := true } s { s with pc := w } := by
  simp [Frame, state_read8]

theorem frame_setPc_push16 (s : State) (v w : Addr) :
    Frame { pc := true, sp := true, mem := true } s { s.push16 v with pc := w } := by
  simp [Frame]

theorem frame_setPc_pull16 (s : State) (w : Addr) :
    Frame { pc := true, sp := true } s { s.pull16.2 with pc := w } := by
  simp [Frame, state_read8]

theorem frame_setA_pull (s : State) (r : Byte) :
    Frame { a := true, sp := true, z := true, n := true } s (setA r s.pull.2) := by
  simp [Frame, state_read8]

theorem frame_setFlags_pull (s : State) (p : Flags) :
    Frame { sp := true, c := true, z := true, i := true, d := true, v := true, n := true } s { s.pull.2 with p := p } := by
  simp [Frame, state_read8]

/-- Of the flags, trap entry writes I alone (R270). -/
theorem frame_enterTrap (s : State) (ret : Addr) :
    Frame { pc := true, sp := true, i := true, mem := true } s (s.enterTrap ret) := by
  simp [Frame]

theorem frame_returnFromTrap (s : State) :
    Frame { pc := true, sp := true, c := true, z := true, i := true, d := true, v := true, n := true } s
      s.returnFromTrap := by
  simp [Frame, state_read8]

/-! ### The statements -/

/-- Settles O45: the two pushes of `push16` go to different cells, so both bytes stand. -/
theorem jsrPushesItsLastByteAddress : Obligations.JsrPushesItsLastByteAddress := by
  refine ⟨hasOpcodes_cons.2 ⟨fun _ _ => rfl, hasOpcodes_nil⟩, fun w s => ⟨_, exec_jsr w s, rfl, ?sp, ?stored, ?frame⟩⟩
  case sp => exact push16_sp_eq s (s.pc - 1)
  case stored => exact stored_push16 s (s.pc - 1)
  case frame => exact frame_setPc_push16 s (s.pc - 1) w

/-- Settles O48: BRK is trap entry with the return address counted from its opcode; its pushes stay below the
vector. -/
theorem brkEntersTheTrap : Obligations.BrkEntersTheTrap := by
  refine ⟨hasOpcodes_cons.2 ⟨fun _ _ => rfl, hasOpcodes_nil⟩, fun pad s pc0 hpc => ⟨_, exec_brk pad s, ?stored, ?sp, ?i,
    ?pc, ?frame⟩⟩
  case stored =>
    rw [brkReturnAddr_of_pc hpc]
    exact stored_enterTrap s (pc0 + s.cfg.brkPushOffset.toAddr)
  case sp => exact enterTrap_sp_eq s (brkReturnAddr s)
  case i => rw [enterTrap_p]
  case pc => exact enterTrap_pc_eq s (brkReturnAddr s)
  case frame => exact frame_enterTrap s (brkReturnAddr s)

/-- Settles O43: each is one push. -/
theorem pushesStoreOneByte : Obligations.PushesStoreOneByte := by
  refine ⟨?opcodes, fun s => ⟨?pha, ?php⟩⟩
  case opcodes =>
    simp only [hasOpcodes_cons]
    exact ⟨fun _ _ => rfl, fun _ _ => rfl, hasOpcodes_nil⟩
  case pha => exact ⟨_, exec_pha s, stored_push s s.a, push_sp s s.a, frame_push s s.a⟩
  case php => exact ⟨_, exec_php s, stored_push s _, push_sp s _, frame_push s _⟩

/-- Settles O44: each is one pull, whose byte goes through `setA` or into the flags. -/
theorem pullsLoadOneByte : Obligations.PullsLoadOneByte := by
  refine ⟨?opcodes, fun s => ⟨?pla, ?plp⟩⟩
  case opcodes =>
    simp only [hasOpcodes_cons]
    exact ⟨fun _ _ => rfl, fun _ _ => rfl, hasOpcodes_nil⟩
  case pla => exact ⟨_, exec_pla s, pull_fst s, pull_sp s, znOf_setA _ _, frame_setA_pull s _⟩
  case plp => exact ⟨_, exec_plp s, congrArg Flags.ofImage (pull_fst s), pull_sp s, frame_setFlags_pull s _⟩

/-- Settles O46: the target is one more than the pulled word. -/
theorem rtsPullsAndAddsOne : Obligations.RtsPullsAndAddsOne := by
  refine ⟨hasOpcodes_cons.2 ⟨fun _ _ => rfl, hasOpcodes_nil⟩, fun s => ⟨_, exec_rts s, ?pc, ?sp, ?frame⟩⟩
  case pc => rw [pull16_fst_eq]
  case sp => exact pull16_sp_eq s
  case frame => exact frame_setPc_pull16 s _

/-- Settles O47: both forms write PC alone, with the target that `jumpTarget` gives the form. -/
theorem jmpSetsPc : Obligations.JmpSetsPc := by
  refine ⟨?opcodes, fun w s => ⟨?abs, ?ind⟩⟩
  case opcodes =>
    simp only [hasOpcodes_cons]
    exact ⟨fun _ _ => rfl, fun _ _ => rfl, hasOpcodes_nil⟩
  case abs => exact ⟨_, exec_jmp (.abs w) s, rfl, frame_setPc s _⟩
  case ind => exact ⟨_, exec_jmp (.ind w) s, rfl, frame_setPc s _⟩

/-- Settles O49: RTI is trap return. -/
theorem rtiReturnsFromTheTrap : Obligations.RtiReturnsFromTheTrap := by
  refine ⟨hasOpcodes_cons.2 ⟨fun _ _ => rfl, hasOpcodes_nil⟩, fun s => ⟨_, exec_rti s, ?flags, ?pc, ?sp, ?frame⟩⟩
  case flags => rw [returnFromTrap_p, pull_fst]
  case pc => exact returnFromTrap_pc_eq s
  case sp => exact returnFromTrap_sp_eq s
  case frame => exact frame_returnFromTrap s

end Sys2Proof.Machine
end

section
/-! The decoder and the encoder (30_encoding.md). The map of R96 and the opcode list of R97 are compared cell by cell;
operand bytes are taken apart and put together once per operand form. -/

namespace Sys2Proof

/-! ### The map of R96 and the lists of R97 and R99 -/

/-- R99 lists the opcodes whose cell of the map is `-`, in order. -/
theorem invalidOpcodes_eq_filter :
    invalidOpcodes = ((List.finRange (2 ^ 8)).map BitVec.ofFin).filter fun op => (mapCell op).1 = .invalid := by
  decide

theorem mem_invalidOpcodes_iff {op : Byte} : op ∈ invalidOpcodes ↔ (mapCell op).1 = .invalid := by
  have hop : op ∈ (List.finRange (2 ^ 8)).map BitVec.ofFin := List.mem_map_of_mem (List.mem_finRange op.toFin)
  rw [invalidOpcodes_eq_filter, List.mem_filter, decide_eq_true_eq]
  exact and_iff_right hop

theorem invalidOpcodes_nodup : invalidOpcodes.Nodup := by
  rw [invalidOpcodes_eq_filter]
  exact ((List.nodup_finRange _).map fun _ _ h => congrArg BitVec.toFin h).filter _

/-- The map gives every opcode a mode that its kind has. -/
theorem mapCell_mode_mem (op : Byte) : (mapCell op).2 ∈ (mapCell op).1.modes := by
  revert op; decide

theorem mapCell_of_mem_invalidOpcodes {op : Byte} (h : op ∈ invalidOpcodes) : mapCell op = (.invalid, .none) := by
  have hkind := mem_invalidOpcodes_iff.1 h
  have hmode := mapCell_mode_mem op
  rw [hkind] at hmode
  exact Prod.ext hkind (List.mem_singleton.1 hmode)

/-- R97 lists every other opcode under the kind and the mode of its cell. -/
theorem lookup_mapCell {op : Byte} (h : (mapCell op).1 ≠ .invalid) :
    (opcodesOf (mapCell op).1).lookup (mapCell op).2 = some op := by
  revert op; decide

/-- The map has every row of R97's list under the listed opcode. -/
theorem mapCell_of_mem_opcodesOf (k : Kind) : ∀ e ∈ opcodesOf k, mapCell e.2 = (k, e.1) := by
  cases k <;> decide

theorem mem_opcodesOf_of_lookup {k : Kind} {m : Mode} {op : Byte} (h : (opcodesOf k).lookup m = some op) :
    (m, op) ∈ opcodesOf k := by
  obtain ⟨l, l', hl, -⟩ := List.lookup_eq_some_iff.1 h
  simp [hl]

theorem mapCell_of_lookup {k : Kind} {m : Mode} {op : Byte} (h : (opcodesOf k).lookup m = some op) :
    mapCell op = (k, m) := mapCell_of_mem_opcodesOf k (m, op) (mem_opcodesOf_of_lookup h)

/-- R97 lists an opcode for every mode of every kind but INVALID. -/
theorem exists_lookup_of_mem_modes {k : Kind} (hk : k ≠ .invalid) :
    ∀ m ∈ k.modes, ∃ op, (opcodesOf k).lookup m = some op := by
  simp only [← Option.isSome_iff_exists]
  cases k
  case invalid => exact absurd rfl hk
  all_goals decide

/-! ### The opcode of an instruction -/

/-- The only instructions of kind INVALID are the `invalid` ones. -/
theorem eq_invalid_of_kind {i : Instr} (h : i.kind = .invalid) : ∃ op, i = .invalid op := by
  cases i
  case invalid op => exact ⟨op, rfl⟩
  all_goals cases h

theorem opcode_of_valid {i : Instr} (h : i.kind ≠ .invalid) : i.opcode = (opcodesOf i.kind).lookup i.mode := by
  unfold Instr.opcode
  split
  · exact absurd rfl h
  · rfl

theorem opcode_invalid {op : Byte} (h : op ∈ invalidOpcodes) : (Instr.invalid op).opcode = some op :=
  if_pos (List.contains_iff_mem.2 h)

theorem opcode_invalid_eq_some {op op' : Byte} (h : (Instr.invalid op).opcode = some op') :
    op ∈ invalidOpcodes ∧ op = op' := by
  simpa [Instr.opcode] using h

/-- A well-formed instruction has an opcode. -/
theorem exists_opcode_of_wellFormed {i : Instr} (h : i.wellFormed = true) : ∃ op, i.opcode = some op := by
  obtain ⟨hmode, hop⟩ := (Bool.and_eq_true _ _).mp h
  by_cases hk : i.kind = .invalid
  · obtain ⟨op, rfl⟩ := eq_invalid_of_kind hk
    exact ⟨op, opcode_invalid (List.contains_iff_mem.1 hop)⟩
  · rw [opcode_of_valid hk]
    exact exists_lookup_of_mem_modes hk i.mode (List.contains_iff_mem.1 hmode)

/-- The opcode's cell of the map is the instruction's kind and mode. -/
theorem mapCell_of_opcode {i : Instr} {op : Byte} (h : i.opcode = some op) : mapCell op = (i.kind, i.mode) := by
  by_cases hk : i.kind = .invalid
  · obtain ⟨op', rfl⟩ := eq_invalid_of_kind hk
    obtain ⟨hmem, rfl⟩ := opcode_invalid_eq_some h
    exact mapCell_of_mem_invalidOpcodes hmem
  · exact mapCell_of_lookup ((opcode_of_valid hk).symm.trans h)

/-! ### Sizes (R91 to R93) -/

/-- The opcode and the operand bytes of an instruction make up its size. -/
theorem operandBytes_length_succ : ∀ i : Instr, i.operandBytes.length + 1 = i.size
  | .adc o => Laws.OperandLength.adc o
  | .sbc o => Laws.OperandLength.sbc o
  | .cmp o => Laws.OperandLength.cmp o
  | .cpx o => Laws.OperandLength.cpx o
  | .cpy o => Laws.OperandLength.cpy o
  | .and o => Laws.OperandLength.and o
  | .ora o => Laws.OperandLength.ora o
  | .eor o => Laws.OperandLength.eor o
  | .bit m => Laws.OperandLength.bit m
  | .asl o => Laws.OperandLength.asl o
  | .lsr o => Laws.OperandLength.lsr o
  | .rol o => Laws.OperandLength.rol o
  | .ror o => Laws.OperandLength.ror o
  | .inc m => Laws.OperandLength.inc m
  | .dec m => Laws.OperandLength.dec m
  | .lda o => Laws.OperandLength.lda o
  | .ldx o => Laws.OperandLength.ldx o
  | .ldy o => Laws.OperandLength.ldy o
  | .sta m => Laws.OperandLength.sta m
  | .stx m => Laws.OperandLength.stx m
  | .sty m => Laws.OperandLength.sty m
  | .jmp t => Laws.OperandLength.jmp t
  | .jsr _ => rfl
  | .brk _ => rfl
  | .bcc _ | .bcs _ | .beq _ | .bne _ | .bmi _ | .bpl _ | .bvc _ | .bvs _ => rfl
  | .inx | .iny | .dex | .dey | .tax | .tay | .txa | .tya | .tsx | .txs => rfl
  | .pha | .php | .pla | .plp | .rts | .rti => rfl
  | .sec | .sei | .sed | .clc | .cli | .cld | .clv | .nop => rfl
  | .invalid _ => rfl

theorem descriptor_of_opcode {i : Instr} {op : Byte} (h : i.opcode = some op) :
    descriptor op = { kind := i.kind, mode := i.mode, size := i.size } := by
  rw [descriptor, mapCell_of_opcode h]
  rfl

theorem encode_eq_some_iff {i : Instr} {w : List Byte} :
    encode i = some w ↔ ∃ op, i.opcode = some op ∧ op :: i.operandBytes = w :=
  Option.map_eq_some_iff

/-! ### From the operand to its bytes and back (R94) -/

@[simp] theorem wordBytes_prefix_iff {w : Addr} {b1 b2 : Byte} : wordBytes w <+: [b1, b2] ↔ word b2 b1 = w := by
  constructor
  · intro h
    obtain ⟨rfl, rfl⟩ : lowByte w = b1 ∧ highByte w = b2 := by simpa [wordBytes, List.cons_prefix_cons] using h
    exact word_high_low w
  · rintro rfl
    rw [wordBytes_word]

/-- A mode and two bytes make the memory operand that has this mode and whose bytes come first among them. -/
theorem memMode_ofMode_eq_some_iff {md : Mode} {b1 b2 : Byte} {m : MemMode} :
    MemMode.ofMode md b1 b2 = some m ↔ m.mode = md ∧ m.bytes <+: [b1, b2] := by
  cases md <;> cases m <;> simp [MemMode.ofMode, MemMode.mode, MemMode.bytes, eq_comm]

theorem exists_memMode_ofMode {md : Mode} (h : md ∈ [.zp, .zpx, .zpy, .abs, .absx, .absy, .izx, .izy])
    (b1 b2 : Byte) : ∃ m, MemMode.ofMode md b1 b2 = some m := by
  fin_cases h <;> exact ⟨_, rfl⟩

theorem memMode_mode_ne (m : MemMode) : m.mode ≠ .imm ∧ m.mode ≠ .acc := by
  cases m <;> simp [MemMode.mode]

theorem src_ofMode_eq_some_iff {md : Mode} {b1 b2 : Byte} {o : Src} :
    Src.ofMode md b1 b2 = some o ↔ o.mode = md ∧ o.bytes <+: [b1, b2] := by
  unfold Src.ofMode
  split
  · next himm =>
    cases o with
    | imm b => simp [himm, Src.mode, Src.bytes, eq_comm]
    | mem m => simp [himm, Src.mode, memMode_mode_ne]
  · next himm => cases o <;> simp [Ne.symm himm, Src.mode, Src.bytes, memMode_ofMode_eq_some_iff]

theorem exists_src_ofMode {md : Mode} (h : md ∈ [.imm, .zp, .zpx, .zpy, .abs, .absx, .absy, .izx, .izy])
    (b1 b2 : Byte) : ∃ o, Src.ofMode md b1 b2 = some o := by
  fin_cases h <;> exact ⟨_, rfl⟩

theorem rmwOpnd_ofMode_eq_some_iff {md : Mode} {b1 b2 : Byte} {o : RmwOpnd} :
    RmwOpnd.ofMode md b1 b2 = some o ↔ o.mode = md ∧ o.bytes <+: [b1, b2] := by
  unfold RmwOpnd.ofMode
  split
  · next hacc => cases o <;> simp [hacc, RmwOpnd.mode, RmwOpnd.bytes, memMode_mode_ne]
  · next hacc => cases o <;> simp [Ne.symm hacc, RmwOpnd.mode, RmwOpnd.bytes, memMode_ofMode_eq_some_iff]

theorem exists_rmwOpnd_ofMode {md : Mode} (h : md ∈ [.acc, .zp, .zpx, .abs, .absx]) (b1 b2 : Byte) :
    ∃ o, RmwOpnd.ofMode md b1 b2 = some o := by
  fin_cases h <;> exact ⟨_, rfl⟩

theorem jumpOpnd_ofMode_eq_some_iff {md : Mode} {b1 b2 : Byte} {t : JumpOpnd} :
    JumpOpnd.ofMode md b1 b2 = some t ↔ t.mode = md ∧ t.bytes <+: [b1, b2] := by
  cases md <;> cases t <;> simp [JumpOpnd.ofMode, JumpOpnd.mode, JumpOpnd.bytes]

theorem exists_jumpOpnd_ofMode {md : Mode} (h : md ∈ [.abs, .ind]) (b1 b2 : Byte) :
    ∃ t, JumpOpnd.ofMode md b1 b2 = some t := by
  fin_cases h <;> exact ⟨_, rfl⟩

/-- Kind, mode and operand bytes tell the instruction. -/
theorem assemble_eq {i : Instr} {b1 b2 : Byte} (hk : i.kind ≠ .invalid) (h : i.operandBytes <+: [b1, b2])
    (op : Byte) : assemble op i.kind i.mode b1 b2 = i := by
  cases i
  case invalid => exact absurd rfl hk
  case adc o | sbc o | cmp o | cpx o | cpy o | and o | ora o | eor o | lda o | ldx o | ldy o =>
    have ho := src_ofMode_eq_some_iff.2 ⟨rfl, h⟩
    simp [assemble, Instr.kind, Instr.mode, ho]
  case bit m | inc m | dec m | sta m | stx m | sty m =>
    have hm := memMode_ofMode_eq_some_iff.2 ⟨rfl, h⟩
    simp [assemble, Instr.kind, Instr.mode, hm]
  case asl o | lsr o | rol o | ror o =>
    have ho := rmwOpnd_ofMode_eq_some_iff.2 ⟨rfl, h⟩
    simp [assemble, Instr.kind, Instr.mode, ho]
  case jmp t =>
    have ht := jumpOpnd_ofMode_eq_some_iff.2 ⟨rfl, h⟩
    simp [assemble, Instr.kind, Instr.mode, ht]
  case jsr w => exact congrArg Instr.jsr (wordBytes_prefix_iff.1 h)
  case bcc d | bcs d | beq d | bne d | bmi d | bpl d | bvc d | bvs d | brk d =>
    obtain rfl : d = b1 := (List.cons_prefix_cons.1 h).1
    rfl
  all_goals rfl

/-- What is put together has the kind and the mode that it is put together from, and its operand bytes come first among
the two. -/
theorem assemble_spec {k : Kind} {m : Mode} (hk : k ≠ .invalid) (hm : m ∈ k.modes) (op b1 b2 : Byte) :
    (assemble op k m b1 b2).kind = k ∧ (assemble op k m b1 b2).mode = m ∧
      (assemble op k m b1 b2).operandBytes <+: [b1, b2] := by
  cases k
  case invalid => exact absurd rfl hk
  case adc | sbc | cmp | cpx | cpy | and | ora | eor | lda | ldx | ldy =>
    obtain ⟨o, ho⟩ := exists_src_ofMode (List.Sublist.subset (by decide) hm) b1 b2
    simpa [assemble, ho] using ⟨rfl, src_ofMode_eq_some_iff.1 ho⟩
  case bit | inc | dec | sta | stx | sty =>
    obtain ⟨o, ho⟩ := exists_memMode_ofMode (List.Sublist.subset (by decide) hm) b1 b2
    simpa [assemble, ho] using ⟨rfl, memMode_ofMode_eq_some_iff.1 ho⟩
  case asl | lsr | rol | ror =>
    obtain ⟨o, ho⟩ := exists_rmwOpnd_ofMode hm b1 b2
    simpa [assemble, ho] using ⟨rfl, rmwOpnd_ofMode_eq_some_iff.1 ho⟩
  case jmp =>
    obtain ⟨t, ht⟩ := exists_jumpOpnd_ofMode hm b1 b2
    simpa [assemble, ht] using ⟨rfl, jumpOpnd_ofMode_eq_some_iff.1 ht⟩
  all_goals
    obtain rfl := List.mem_singleton.1 hm
    simp [assemble, Instr.kind, Instr.mode, Instr.operandBytes]

/-! ### Decoding (R95) -/

theorem decodeBytes_of_mem_invalidOpcodes {op : Byte} (h : op ∈ invalidOpcodes) (b1 b2 : Byte) :
    decodeBytes op b1 b2 = .invalid op := by
  rw [decodeBytes, mapCell_of_mem_invalidOpcodes h]
  rfl

theorem decodeBytes_spec {op : Byte} (h : op ∉ invalidOpcodes) (b1 b2 : Byte) :
    (decodeBytes op b1 b2).kind = (mapCell op).1 ∧ (decodeBytes op b1 b2).mode = (mapCell op).2 ∧
      (decodeBytes op b1 b2).operandBytes <+: [b1, b2] :=
  assemble_spec (mt mem_invalidOpcodes_iff.2 h) (mapCell_mode_mem op) op b1 b2

/-- The decoder reads the instruction that has the opcode and whose operand bytes come first among the next two. -/
theorem decodeBytes_eq_iff {op b1 b2 : Byte} {i : Instr} :
    decodeBytes op b1 b2 = i ↔ i.opcode = some op ∧ i.operandBytes <+: [b1, b2] := by
  constructor
  · rintro rfl
    by_cases hop : op ∈ invalidOpcodes
    · rw [decodeBytes_of_mem_invalidOpcodes hop]
      exact ⟨opcode_invalid hop, List.nil_prefix⟩
    · obtain ⟨hkind, hmode, hbytes⟩ := decodeBytes_spec hop b1 b2
      have hvalid := mt mem_invalidOpcodes_iff.2 hop
      refine ⟨?_, hbytes⟩
      rw [opcode_of_valid (hkind ▸ hvalid), hkind, hmode, lookup_mapCell hvalid]
  · rintro ⟨hop, hbytes⟩
    by_cases hk : i.kind = .invalid
    · obtain ⟨op', rfl⟩ := eq_invalid_of_kind hk
      obtain ⟨hmem, rfl⟩ := opcode_invalid_eq_some hop
      exact decodeBytes_of_mem_invalidOpcodes hmem b1 b2
    · rw [decodeBytes, mapCell_of_opcode hop, assemble_eq hk hbytes]

/-- At most two bytes come first in a long enough string when they come first among that string's first two. -/
theorem firstTwo_prefix_iff {l bs : List Byte} (h : l.length ≤ 2) :
    l.length ≤ bs.length ∧ l <+: [bs.getD 0 0, bs.getD 1 0] ↔ l <+: bs := by
  match l, bs with
  | [], _ => simp
  | [_], [] => simp
  | [_], _ :: _ => simp [List.cons_prefix_cons]
  | [_, _], [] => simp
  | [_, _], [_] => simp [List.cons_prefix_cons]
  | [_, _], _ :: _ :: _ => simp [List.cons_prefix_cons]

theorem operandBytes_length_le (i : Instr) : i.operandBytes.length ≤ 2 := by
  have hsize : i.size ≤ 3 := by
    unfold Instr.size encodedSize
    split
    · decide
    · cases i.mode <;> decide
  have := operandBytes_length_succ i
  omega

/-- A string is what comes first in it, followed by what is left after as many bytes. -/
theorem prefix_and_drop_eq_iff {l bs rest : List Byte} : l <+: bs ∧ bs.drop l.length = rest ↔ bs = l ++ rest := by
  constructor
  · rintro ⟨⟨rest', rfl⟩, rfl⟩
    rw [List.drop_left]
  · rintro rfl
    exact ⟨List.prefix_append l rest, List.drop_left⟩

/-- The decoder reads exactly the opcode and the operand bytes, and leaves the rest. -/
theorem decode_cons_eq_ok_iff {op : Byte} {bs rest : List Byte} {i : Instr} :
    decode (op :: bs) = .ok (i, rest) ↔ i.opcode = some op ∧ bs = i.operandBytes ++ rest := by
  have hsize (hop : i.opcode = some op) : (descriptor op).size - 1 = i.operandBytes.length := by
    rw [descriptor_of_opcode hop, ← operandBytes_length_succ, Nat.add_sub_cancel]
  by_cases hshort : bs.length < (descriptor op).size - 1
  · simp only [decode, hshort, if_true, reduceCtorEq, false_iff]
    rintro ⟨hop, rfl⟩
    rw [hsize hop, List.length_append] at hshort
    omega
  · simp only [decode, hshort, if_false, Except.ok.injEq, Prod.mk.injEq, decodeBytes_eq_iff, and_assoc]
    refine and_congr_right fun hop => ?_
    rw [hsize hop] at hshort ⊢
    rw [← prefix_and_drop_eq_iff, ← firstTwo_prefix_iff (bs := bs) (operandBytes_length_le i),
      and_iff_right (not_lt.1 hshort)]

theorem wellFormed_of_opcode {i : Instr} {op : Byte} (h : i.opcode = some op) : i.wellFormed = true := by
  have hcell := mapCell_of_opcode h
  have hmode := mapCell_mode_mem op
  rw [hcell] at hmode
  refine (Bool.and_eq_true _ _).mpr ⟨List.contains_iff_mem.2 hmode, ?_⟩
  unfold Instr.invalidOpcodeOk
  split
  · exact List.contains_iff_mem.2 (opcode_invalid_eq_some h).1
  · rfl

theorem decodeBytes_kind_mode (op b1 b2 : Byte) :
    (decodeBytes op b1 b2).kind = (mapCell op).1 ∧ (decodeBytes op b1 b2).mode = (mapCell op).2 := by
  obtain ⟨hop, -⟩ := decodeBytes_eq_iff.1 (rfl : decodeBytes op b1 b2 = _)
  rw [mapCell_of_opcode hop]
  exact ⟨rfl, rfl⟩

/-- The size by mode as R92 lists it, and R93's exception. -/
theorem encodedSize_eq (k : Kind) (m : Mode) :
    encodedSize k m = if k = .brk then 2
      else if m ∈ [.imp, .acc, .none] then 1
      else if m ∈ [.imm, .zp, .zpx, .zpy, .rel, .izx, .izy] then 2
      else 3 := by
  unfold encodedSize
  cases m <;> rfl

/-! ### The statements -/

/-- Settles O1: the encoding is the opcode and the operand bytes, which is what the decoder reads. -/
theorem decodeOfEncodeGivesTheInstructionBack : Obligations.DecodeOfEncodeGivesTheInstructionBack := by
  intro i hwf
  obtain ⟨op, hop⟩ := exists_opcode_of_wellFormed hwf
  exact ⟨_, encode_eq_some_iff.2 ⟨op, hop, rfl⟩, fun rest => decode_cons_eq_ok_iff.2 ⟨hop, rfl⟩⟩

/-- Settles O2: what the decoder read is the opcode and the operand bytes of the instruction. -/
theorem encodeOfDecodeGivesTheBytesBack : Obligations.EncodeOfDecodeGivesTheBytesBack := by
  intro bs rest i h
  cases bs with
  | nil => cases h
  | cons op bs =>
    obtain ⟨hop, rfl⟩ := decode_cons_eq_ok_iff.1 h
    exact ⟨wellFormed_of_opcode hop, _, encode_eq_some_iff.2 ⟨op, hop, rfl⟩, rfl⟩

/-- Settles O5: the operand bytes make up the size, which the map's cell of the opcode tells. -/
theorem instructionSizeIsFixedByMode : Obligations.InstructionSizeIsFixedByMode := by
  refine ⟨fun i w h => ?length, fun op b1 b2 => ?descriptor⟩
  case length =>
    obtain ⟨op, -, rfl⟩ := encode_eq_some_iff.1 h
    exact (operandBytes_length_succ i).trans (encodedSize_eq i.kind i.mode)
  case descriptor =>
    obtain ⟨hkind, hmode⟩ := decodeBytes_kind_mode op b1 b2
    refine ⟨?_, hkind, hmode⟩
    rw [Instr.size, hkind, hmode]
    rfl

/-- Settles O3, by running the decoder on each word. -/
theorem decoderReadsSampleWords : Obligations.DecoderReadsSampleWords :=
  ⟨rfl, rfl, rfl, rfl, rfl, rfl, rfl, rfl, rfl, rfl, rfl, rfl, rfl, rfl, rfl, rfl, rfl, rfl, rfl, rfl, rfl⟩

/-- Settles O4: the list is that of the map's `-` cells, and R97's list has the others. -/
theorem invalidOpcodesAreExactlyTheListedOnes : Obligations.InvalidOpcodesAreExactlyTheListedOnes := by
  refine ⟨rfl, invalidOpcodes_nodup, fun op => ?_⟩
  split
  case isTrue hop =>
    rw [descriptor, mapCell_of_mem_invalidOpcodes hop]
    rfl
  case isFalse hop =>
    have hvalid := mt mem_invalidOpcodes_iff.2 hop
    exact ⟨hvalid, mem_opcodesOf_of_lookup (lookup_mapCell hvalid)⟩

end Sys2Proof
end

section
/-! Mirrored cells (20_memory.md R65) and the uniqueness of the canonical form of memory (log entry 2). -/

namespace Sys2Proof

/-- Below 0x2000 the low 11 bits tell the cell (R61). -/
theorem phys_eq_of_mirror {a b : Addr} (h : a &&& 0x07FF = b &&& 0x07FF) (ha : a < 0x2000) (hb : b < 0x2000) :
    phys a = phys b := by
  rw [phys, phys, if_pos ha, if_pos hb, h]

/-- Every cell that exists is the cell of the address of its own number. -/
theorem phys_ofNat_toNat {n : Nat} (h : isCell n = true) : (phys (BitVec.ofNat 16 n)).toNat = n := by
  simp only [isCell, Bool.or_eq_true, Bool.and_eq_true, decide_eq_true_eq] at h
  rw [phys_toNat, BitVec.toNat_ofNat]
  split <;> omega

namespace Memory

/-- A canonical memory lists no number of a cell that does not exist. -/
theorem get_of_not_isCell {m : Memory} {n : Nat} (hm : m.wf = true) (hn : ¬ isCell n = true) :
    m.get n = unwrittenByte := by
  induction m with
  | nil => rfl
  | cons c m ih =>
    obtain ⟨k, v⟩ := c
    obtain ⟨hk, -, -, hm⟩ := wf_cons.1 hm
    have hkn : k ≠ n := fun h => hn (h ▸ hk)
    rw [get_cons, if_neg hkn, ih hm, ite_self]

/-- The first listed cell reads as its byte. -/
theorem get_cons_self (k : Nat) (v : Byte) (m : Memory) : get ((k, v) :: m) k = v := by
  simp [get_cons]

theorem get_cons_of_lt {k n : Nat} (h : k < n) (v : Byte) (m : Memory) : get ((k, v) :: m) n = m.get n :=
  if_pos h

/-- A listed cell that reads alike in another memory is not below the first one that is listed there. -/
theorem le_of_get_eq {k k' : Nat} {v v' : Byte} {m m' : Memory} (hv : v ≠ unwrittenByte)
    (h : get ((k, v) :: m) k = get ((k', v') :: m') k) : k' ≤ k := by
  by_contra hlt
  rw [get_cons_self, get_of_startsAbove (by simpa [startsAbove] using hlt)] at h
  exact hv h

/-- Canonical memories with the same byte in every cell are equal. -/
theorem eq_of_get_eq {m m' : Memory} (hm : m.wf = true) (hm' : m'.wf = true) (h : ∀ n, m.get n = m'.get n) :
    m = m' := by
  induction m generalizing m' with
  | nil =>
    cases m' with
    | nil => rfl
    | cons c m' =>
      obtain ⟨-, hv, -⟩ := wf_cons.1 hm'
      exact absurd ((h c.1).trans (get_cons_self c.1 c.2 m')).symm hv
  | cons c m ih =>
    obtain ⟨k, v⟩ := c
    obtain ⟨-, hv, hs, htl⟩ := wf_cons.1 hm
    cases m' with
    | nil => exact absurd ((get_cons_self k v m).symm.trans (h k)) hv
    | cons c' m' =>
      obtain ⟨k', v'⟩ := c'
      obtain ⟨-, hv', hs', htl'⟩ := wf_cons.1 hm'
      obtain rfl : k = k' := le_antisymm (le_of_get_eq hv' (h k').symm) (le_of_get_eq hv (h k))
      obtain rfl : v = v' := by simpa only [get_cons_self] using h k
      have htail (n : Nat) : Memory.get m n = Memory.get m' n := by
        by_cases hn : k < n
        · simpa only [get_cons_of_lt hn] using h n
        · rw [get_of_startsAbove (startsAbove_mono (not_lt.1 hn) hs),
            get_of_startsAbove (startsAbove_mono (not_lt.1 hn) hs')]
      rw [ih htl htl' htail]

theorem eq_of_read8_eq {m m' : Memory} (hm : m.wf = true) (hm' : m'.wf = true)
    (h : ∀ a : Addr, m.read8 a = m'.read8 a) : m = m' := by
  refine eq_of_get_eq hm hm' fun n => ?_
  by_cases hn : isCell n = true
  · simpa only [read8, phys_ofNat_toNat hn] using h (BitVec.ofNat 16 n)
  · rw [get_of_not_isCell hm hn, get_of_not_isCell hm' hn]

/-- One more byte is loaded after the others, at the next address (10_state.md R51). -/
theorem load_append_singleton (m : Memory) (a : Addr) (bs : List Byte) (b : Byte) :
    m.load a (bs ++ [b]) = (m.load a bs).write8 (BitVec.ofNat 16 (a.toNat + bs.length)) b := by
  induction bs generalizing m a with
  | nil => simp [load]
  | cons c bs ih =>
    have haddr : BitVec.ofNat 16 ((a + 1).toNat + bs.length) = BitVec.ofNat 16 (a.toNat + (c :: bs).length) := by
      have hone : (1 : Addr).toNat = 1 := rfl
      apply BitVec.eq_of_toNat_eq
      simp only [BitVec.toNat_ofNat, BitVec.toNat_add, List.length_cons, hone]
      omega
    rw [List.cons_append, load, ih, haddr]
    rfl

end Memory

end Sys2Proof

namespace Sys2Proof.Machine

/-! ### The statements -/

/-- Settles O18: the two addresses have one cell. -/
theorem mirroredReadReturnsTheWrittenByte : Obligations.MirroredReadReturnsTheWrittenByte := by
  intro s a a' v h ha ha'
  rw [read8_of_write8, if_pos (phys_eq_of_mirror h ha ha').symm]

/-- Settles O20: writes go to cells that exist; for uniqueness, every cell is that of an address. -/
theorem canonicalMemoryIsKeptAndUnique : Obligations.CanonicalMemoryIsKeptAndUnique :=
  ⟨fun _ a v h => Memory.wf_write8 a v h, fun _ _ hm hm' h => Memory.eq_of_read8_eq hm hm' h⟩

/-- Settles O56, by induction on the buffer; the call is the load by definition. -/
theorem loadWritesTheBufferInOrder : Obligations.LoadWritesTheBufferInOrder :=
  ⟨fun _ _ => rfl, Memory.load_append_singleton, fun _ _ => ⟨fun _ _ => rfl, fun _ => rfl⟩⟩

end Sys2Proof.Machine
end

section
/-! The stack unit (40_execution.md R140 to R144): a pull undoes a push, and every access stays in the stack page. -/

namespace Sys2Proof.Machine

theorem push_pull_fst (s : State) (v : Byte) : (s.push v).pull.1 = v := by
  rw [pull_fst, push_sp, sub_add_cancel, read8_of_push_same]

theorem push_pull_sp (s : State) (v : Byte) : (s.push v).pull.2.sp = s.sp := by
  rw [pull_sp, push_sp, sub_add_cancel]

/-- The bytes of a pushed word stand in two cells (R142). -/
theorem read8_of_push16 (s : State) (w : Addr) :
    (s.push16 w).read8 (stackAddr s.sp) = highByte w ∧ (s.push16 w).read8 (stackAddr (s.sp - 1)) = lowByte w := by
  constructor
  · rw [stored_push16 s w]
    simp [storedOr]
  · rw [stored_push16 s w]
    simp [storedOr]

/-- A pushed word is pulled again (R143). -/
theorem push16_pull16_fst (s : State) (w : Addr) : (s.push16 w).pull16.1 = w := by
  obtain ⟨hhigh, hlow⟩ := read8_of_push16 s w
  rw [pull16_fst, push16_sp, sub_add_cancel, sub_add_cancel, hhigh, hlow, word_high_low]

theorem push16_pull16_sp (s : State) (w : Addr) : (s.push16 w).pull16.2.sp = s.sp := by
  rw [pull16_sp, push16_sp, sub_add_cancel, sub_add_cancel]

/-! ### The statements -/

/-- Settles O21: the pulled cells are the pushed ones. -/
theorem stackRoundTrip : Obligations.StackRoundTrip :=
  fun s => ⟨fun w => ⟨push16_pull16_fst s w, push16_pull16_sp s w⟩, fun v => ⟨push_pull_fst s v, push_pull_sp s v⟩⟩

/-- Settles O22: S wraps in its byte, so the second push from S = 0 goes to the other end of the page. -/
theorem stackAccessesStayInTheStackPage : Obligations.StackAccessesStayInTheStackPage := by
  refine fun s => ⟨stackAddr_toNat s.sp, phys_stackAddr s.sp, fun v => ⟨stored_push s v, push_sp s v⟩, pull_fst s, rfl,
    fun hsp v w => ?_⟩
  have hfirst : stackAddr s.sp = 0x0100 := by rw [hsp]; rfl
  have hsecond : stackAddr (s.push v).sp = 0x01FF := by rw [push_sp, hsp]; rfl
  refine ⟨hfirst, hsecond, ?low, ?high⟩
  case low =>
    rw [read8_of_push, hsecond, if_neg (by decide), ← hfirst, read8_of_push_same]
  case high => rw [← hsecond, read8_of_push_same]

end Sys2Proof.Machine
end

section
/-! What each instruction may write (10_state.md R32 to R34, R39): a table by instruction, the frame that it gives
`exec`, and the byte writes that `exec` does to memory. -/

namespace Sys2Proof.Machine

/-! ### The table -/

/-- The registers and flags that the rule of an instruction writes, and whether it writes memory. -/
def writesOf : Instr → Writes
  | .adc _ | .sbc _ => { a := true, c := true, v := true, z := true, n := true }
  | .cmp _ | .cpx _ | .cpy _ => { c := true, z := true, n := true }
  | .and _ | .ora _ | .eor _ | .lda _ | .txa | .tya => { a := true, z := true, n := true }
  | .bit _ => { z := true, n := true, v := true }
  | .asl .acc | .lsr .acc | .rol .acc | .ror .acc => { a := true, c := true, z := true, n := true }
  | .asl (.mem _) | .lsr (.mem _) | .rol (.mem _) | .ror (.mem _) => { c := true, z := true, n := true, mem := true }
  | .inc _ | .dec _ => { z := true, n := true, mem := true }
  | .ldx _ | .inx | .dex | .tax | .tsx => { x := true, z := true, n := true }
  | .ldy _ | .iny | .dey | .tay => { y := true, z := true, n := true }
  | .sta _ | .stx _ | .sty _ => { mem := true }
  | .txs => { sp := true }
  | .bcc _ | .bcs _ | .beq _ | .bne _ | .bmi _ | .bpl _ | .bvc _ | .bvs _ | .jmp _ => { pc := true }
  | .pha | .php => { sp := true, mem := true }
  | .pla => { a := true, sp := true, z := true, n := true }
  | .plp => { sp := true, c := true, z := true, i := true, d := true, v := true, n := true }
  | .jsr _ => { pc := true, sp := true, mem := true }
  | .rts => { pc := true, sp := true }
  | .brk _ => { pc := true, sp := true, i := true, mem := true }
  | .rti => { pc := true, sp := true, c := true, z := true, i := true, d := true, v := true, n := true }
  | .sec | .clc => { c := true }
  | .sei | .cli => { i := true }
  | .sed | .cld => { d := true }
  | .clv => { v := true }
  | .nop | .invalid _ => {}

/-! ### Frames of the flag instructions -/

theorem frame_setC (s : State) (b : Bool) : Frame { c := true } s { s with p := { s.p with c := b } } := by
  simp [Frame, state_read8]

theorem frame_setI (s : State) (b : Bool) : Frame { i := true } s { s with p := { s.p with i := b } } := by
  simp [Frame, state_read8]

theorem frame_setD (s : State) (b : Bool) : Frame { d := true } s { s with p := { s.p with d := b } } := by
  simp [Frame, state_read8]

theorem frame_setV (s : State) (b : Bool) : Frame { v := true } s { s with p := { s.p with v := b } } := by
  simp [Frame, state_read8]

theorem frame_refl (s : State) : Frame {} s s := by
  simp [Frame]

/-! ### The frame of an instruction -/

theorem next_inj {s t : State} : (Host.Outcome.next s : Result) = .next t → s = t :=
  Host.Outcome.next.inj

/-- A valid instruction changes no register, flag or byte of memory that the table does not give it. -/
theorem exec_frame {i : Instr} {s t : State} (h : exec i s = .next t) (hk : i.kind ≠ .invalid) :
    Frame (writesOf i) s t := by
  cases i
  case invalid => exact absurd rfl hk
  case adc | sbc => exact next_inj h ▸ frame_addToA _ s
  case cmp | cpx | cpy => exact next_inj h ▸ frame_compareWith _ _ s
  case and | ora | eor | lda | txa | tya => exact next_inj h ▸ frame_setA _ s
  case ldx | inx | dex | tax | tsx => exact next_inj h ▸ frame_setX _ s
  case ldy | iny | dey | tay => exact next_inj h ▸ frame_setY _ s
  case bit => exact next_inj h ▸ frame_setFlagsZNV _ _ _ s
  case asl o | lsr o | rol o | ror o =>
    cases o with
    | acc => exact next_inj h ▸ frame_storeShift_acc _ s
    | mem m => exact next_inj h ▸ frame_storeShift_mem m _ s
  case inc m | dec m => exact next_inj h ▸ frame_setZN_storeMem m _ s
  case sta m | stx m | sty m => exact next_inj h ▸ frame_storeMem m _ s
  case txs => exact next_inj h ▸ frame_setSp s.x s
  case bcc d | bcs d | beq d | bne d | bmi d | bpl d | bvc d | bvs d => exact next_inj h ▸ frame_branchIf _ _ d s
  case jmp => exact next_inj h ▸ frame_setPc s _
  case pha | php => exact next_inj h ▸ frame_push s _
  case pla => exact next_inj h ▸ frame_setA_pull s _
  case plp => exact next_inj h ▸ frame_setFlags_pull s _
  case jsr w => exact next_inj h ▸ frame_setPc_push16 s _ w
  case rts => exact next_inj h ▸ frame_setPc_pull16 s _
  case brk => exact next_inj h ▸ frame_enterTrap s _
  case rti => exact next_inj h ▸ frame_returnFromTrap s
  case sec | clc => exact next_inj h ▸ frame_setC s _
  case sei | cli => exact next_inj h ▸ frame_setI s _
  case sed | cld => exact next_inj h ▸ frame_setD s _
  case clv => exact next_inj h ▸ frame_setV s _
  case nop => exact next_inj h ▸ frame_refl s

/-! ### The byte writes of an instruction -/

/-- The memory after byte writes, the first of the list first. -/
def writeBytes (m : Memory) (l : List (Addr × Byte)) : Memory := l.foldl (fun m e => m.write8 e.1 e.2) m

theorem wf_writeBytes {m : Memory} (l : List (Addr × Byte)) (h : m.wf = true) : (writeBytes m l).wf = true := by
  induction l generalizing m with
  | nil => exact h
  | cons e l ih => exact ih (Memory.wf_write8 e.1 e.2 h)

/-- An instruction does byte writes to memory, and none where the table gives it no memory. -/
theorem exec_mem {i : Instr} {s t : State} (h : exec i s = .next t) :
    ∃ l, t.mem = writeBytes s.mem l ∧ ((writesOf i).mem = false → l = []) := by
  cases i <;> obtain rfl := next_inj h
  case asl o | lsr o | rol o | ror o =>
    cases o with
    | acc => exact ⟨[], rfl, fun _ => rfl⟩
    | mem m => exact ⟨[(effAddr m s, _)], rfl, nofun⟩
  case inc m | dec m | sta m | stx m | sty m => exact ⟨[(effAddr m s, _)], rfl, nofun⟩
  case pha | php => exact ⟨[(stackAddr s.sp, _)], rfl, nofun⟩
  case jsr => exact ⟨[(stackAddr s.sp, _), (stackAddr (s.sp - 1), _)], rfl, nofun⟩
  case brk => exact ⟨[(stackAddr s.sp, _), (stackAddr (s.sp - 1), _), (stackAddr (s.sp - 1 - 1), _)], rfl, nofun⟩
  case bcc | bcs | beq | bne | bmi | bpl | bvc | bvs => exact ⟨[], branchIf_mem _ _ _ s, fun _ => rfl⟩
  all_goals exact ⟨[], rfl, fun _ => rfl⟩

theorem exec_mem_of_not_writes {i : Instr} {s t : State} (h : exec i s = .next t) (hw : (writesOf i).mem = false) :
    t.mem = s.mem := by
  obtain ⟨l, hmem, hl⟩ := exec_mem h
  rw [hmem, hl hw]
  rfl

theorem exec_mem_wf {i : Instr} {s t : State} (h : exec i s = .next t) (hwf : s.mem.wf = true) :
    t.mem.wf = true := by
  obtain ⟨l, hmem, -⟩ := exec_mem h
  rw [hmem]
  exact wf_writeBytes l hwf

/-! ### The table by register and flag -/

/-- The instructions that the table gives a flag are the writers that R39 lists. -/
theorem kind_of_writesOf_flag (i : Instr) :
    ((writesOf i).c = true → i.kind ∈ ([.adc, .sbc, .cmp, .cpx, .cpy, .asl, .lsr, .rol, .ror, .plp, .rti, .sec,
      .clc] : List Kind)) ∧
    ((writesOf i).z = true ∨ (writesOf i).n = true → i.kind ∈ ([.adc, .sbc, .cmp, .cpx, .cpy, .and, .ora, .eor, .bit,
      .asl, .lsr, .rol, .ror, .inc, .dec, .inx, .iny, .dex, .dey, .lda, .ldx, .ldy, .tax, .tay, .txa, .tya,
      .tsx, .pla, .plp, .rti] : List Kind)) ∧
    ((writesOf i).v = true → i.kind ∈ ([.adc, .sbc, .bit, .plp, .rti, .clv] : List Kind)) ∧
    ((writesOf i).i = true → i.kind ∈ ([.brk, .plp, .rti, .sei, .cli] : List Kind)) ∧
    ((writesOf i).d = true → i.kind ∈ ([.plp, .rti, .sed, .cld] : List Kind)) := by
  cases i
  case asl o | lsr o | rol o | ror o => cases o <;> simp [writesOf, Instr.kind]
  all_goals simp [writesOf, Instr.kind]

/-- The instructions that the table gives a register or memory; the operand decides what a shift writes (R180). -/
theorem kind_of_writesOf_register (i : Instr) :
    ((writesOf i).a = true → i.kind ∈ ([.adc, .sbc, .and, .ora, .eor, .lda, .txa, .tya, .pla] : List Kind) ∨
      i ∈ ([.asl .acc, .lsr .acc, .rol .acc, .ror .acc] : List Instr)) ∧
    ((writesOf i).x = true → i.kind ∈ ([.ldx, .inx, .dex, .tax, .tsx] : List Kind)) ∧
    ((writesOf i).y = true → i.kind ∈ ([.ldy, .iny, .dey, .tay] : List Kind)) ∧
    ((writesOf i).sp = true → i.kind ∈ ([.pha, .php, .pla, .plp, .jsr, .rts, .brk, .rti, .txs] : List Kind)) ∧
    ((writesOf i).pc = true → i.kind ∈ ([.bcc, .bcs, .beq, .bne, .bmi, .bpl, .bvc, .bvs, .jsr, .rts, .jmp, .brk,
      .rti] : List Kind)) ∧
    ((writesOf i).mem = true → i.kind ∈ ([.sta, .stx, .sty, .inc, .dec, .pha, .php, .jsr, .brk] : List Kind) ∨
      ∃ m, i ∈ ([.asl (.mem m), .lsr (.mem m), .rol (.mem m), .ror (.mem m)] : List Instr)) := by
  cases i
  case asl o | lsr o | rol o | ror o => cases o <;> simp [writesOf, Instr.kind]
  all_goals simp [writesOf, Instr.kind]

/-- What a frame leaves unchanged unless it is named is named when it changes. -/
theorem named_of_ne {α : Type} {w : Bool} {a b : α} (hframe : w = false → b = a) (hne : b ≠ a) : w = true :=
  eq_true_of_ne_false (mt hframe hne)

/-! ### The statements -/

/-- Settles O12: a flag that changes is one that the table gives the instruction; an invalid opcode changes none. -/
theorem flagsChangeOnlyByTheirWriters : Obligations.FlagsChangeOnlyByTheirWriters := by
  intro i s t h
  by_cases hk : i.kind = .invalid
  case pos =>
    obtain ⟨op, rfl⟩ := eq_invalid_of_kind hk
    obtain rfl := next_inj h
    simp
  case neg =>
    obtain ⟨-, -, -, -, -, hc, hz, hi, hd, hv, hn, -⟩ := exec_frame h hk
    obtain ⟨ofC, ofZN, ofV, ofI, ofD⟩ := kind_of_writesOf_flag i
    exact ⟨fun hne => ofC (named_of_ne hc hne), fun hne => ofZN (hne.imp (named_of_ne hz) (named_of_ne hn)),
      fun hne => ofV (named_of_ne hv hne), fun hne => ofI (named_of_ne hi hne), fun hne => ofD (named_of_ne hd hne)⟩

/-- Settles O13: as for the flags; the latch changes by an invalid opcode alone, which changes nothing else. -/
theorem registersAndMemoryChangeOnlyByTheirWriters : Obligations.RegistersAndMemoryChangeOnlyByTheirWriters := by
  intro i s t h
  by_cases hk : i.kind = .invalid
  case pos =>
    obtain ⟨op, rfl⟩ := eq_invalid_of_kind hk
    obtain rfl := next_inj h
    simp [Instr.kind]
  case neg =>
    obtain ⟨ha, hx, hy, hsp, hpc, -, -, -, -, -, -, hfault, hcfg, -⟩ := exec_frame h hk
    obtain ⟨ofA, ofX, ofY, ofSp, ofPc, ofMem⟩ := kind_of_writesOf_register i
    exact ⟨fun hne => ofA (named_of_ne ha hne), fun hne => ofX (named_of_ne hx hne),
      fun hne => ofY (named_of_ne hy hne), fun hne => ofSp (named_of_ne hsp hne), fun hne => ofPc (named_of_ne hpc hne),
      fun hne => ofMem (named_of_ne (exec_mem_of_not_writes h) hne), fun hne => absurd hfault hne, hcfg⟩

end Sys2Proof.Machine
end

section
/-! The step (40_execution.md R121, R122; 60_exceptions.md R261, R262): what it does at a valid and at an invalid
opcode, what a latched fault stops, and the invariant of the machine. -/

namespace Sys2Proof.Machine

/-! ### A step at a valid and at an invalid opcode -/

theorem fetch_of_invalid {s : State} (h : s.read8 s.pc ∈ invalidOpcodes) : fetch s = .invalid (s.read8 s.pc) :=
  decodeBytes_of_mem_invalidOpcodes h _ _

theorem fetch_kind_eq_invalid_iff (s : State) : (fetch s).kind = .invalid ↔ s.read8 s.pc ∈ invalidOpcodes := by
  rw [mem_invalidOpcodes_iff, fetch, (decodeBytes_kind_mode _ _ _).1]

/-- At a valid opcode a step is the body of the fetched instruction, whose answer has no latched fault. -/
theorem step_of_valid {s : State} (hf : s.fault = none) (hk : (fetch s).kind ≠ .invalid) :
    ∃ t, step s = .next t ∧ exec (fetch s) { s with pc := s.pc + BitVec.ofNat 16 (fetch s).size } = .next t ∧
      t.fault = none := by
  obtain ⟨t, ht⟩ := exec_answers_next (fetch s) (prologue (fetch s) s)
  obtain ⟨-, -, -, -, -, -, -, -, -, -, -, hfault, -⟩ := exec_frame ht hk
  rw [prologue_fault, hf] at hfault
  refine ⟨t, ?_, ?_, hfault⟩
  · rw [step_of_exec hf ht, reportLatch_none hfault]
  · rwa [← prologue_valid _ s hk]

/-- A step runs the body of the instruction that stands at PC, on the state with PC past it (R121, R122). -/
theorem step_eq_exec {s : State} {i : Instr} (hf : s.fault = none) (hi : fetch s = i) (hk : i.kind ≠ .invalid) :
    step s = exec i { s with pc := s.pc + BitVec.ofNat 16 i.size } := by
  subst hi
  obtain ⟨t, hstep, hexec, -⟩ := step_of_valid hf hk
  rw [hstep, hexec]

theorem step_of_invalid {s : State} (hf : s.fault = none) (h : s.read8 s.pc ∈ invalidOpcodes) :
    step s = .fault (.invalidOpcode (s.read8 s.pc) s.pc) := by
  have hexec : exec (fetch s) (prologue (fetch s) s) = .next (s.latchInvalidOpcode (s.read8 s.pc)) := by
    rw [fetch_of_invalid h, prologue_invalid, exec_invalid]
  rw [step_of_exec hf hexec, reportLatch_some (latchInvalidOpcode_fault s _)]

/-- A fault that a step answers was latched before, or names the invalid opcode at PC (R261, R262). -/
theorem step_fault {s : State} {f : Fault} (h : step s = .fault f) :
    s.fault = some f ∨ s.fault = none ∧ s.read8 s.pc ∈ invalidOpcodes ∧ f = .invalidOpcode (s.read8 s.pc) s.pc := by
  cases hf : s.fault with
  | some g =>
    rw [step_of_latched hf] at h
    cases h
    exact .inl rfl
  | none =>
    by_cases hop : s.read8 s.pc ∈ invalidOpcodes
    · rw [step_of_invalid hf hop] at h
      cases h
      exact .inr ⟨rfl, hop, rfl⟩
    · obtain ⟨t, ht, -⟩ := step_of_valid hf (mt (fetch_kind_eq_invalid_iff s).1 hop)
      rw [ht] at h
      cases h

/-- The decoder on the three bytes at PC reads the fetched instruction. -/
theorem fetch_eq_of_decode {s : State} {i : Instr} {rest : List Byte} (h : decode (fetchBytes s) = .ok (i, rest)) :
    fetch s = i := by
  obtain ⟨rest', h'⟩ := decode_fetchBytes s
  rw [h] at h'
  cases h'
  rfl

/-! ### A latched fault -/

theorem hostStep_of_latched {s : State} {f : Fault} (h : s.fault = some f) : hostStep s = (s, .fault f) := by
  rw [hostStep_of_fault (step_of_latched h), ← h]

theorem hostRun_of_latched {s : State} {f : Fault} (h : s.fault = some f) (n : Nat) :
    hostRun (n + 1) s = (s, .fault f) := by
  rw [hostRun, hostStep_of_latched h]

/-! ### The invariant -/

theorem inv_of_not_latched {s : State} (hmem : s.mem.wf = true) (hf : s.fault = none) : s.Inv := by
  refine ⟨hmem, ?_⟩
  rw [State.latchOk, hf]

theorem step_inv {s t : State} (hs : s.Inv) (h : step s = .next t) : t.Inv := by
  obtain ⟨hmem, -⟩ := hs
  obtain ⟨-, hexec, hfault⟩ := step_next h
  exact inv_of_not_latched (exec_mem_wf hexec (by rwa [prologue_mem])) hfault

theorem hostStep_inv {s : State} (hs : s.Inv) : (hostStep s).1.Inv := by
  cases hstep : step s with
  | next t =>
    rw [hostStep_of_next hstep]
    exact step_inv hs hstep
  | refused r => exact absurd hstep (step_ne_refused s r)
  | fault f =>
    obtain hf | ⟨-, hop, rfl⟩ := step_fault hstep
    · rwa [hostStep_of_latched hf]
    · rw [hostStep_of_fault hstep]
      refine ⟨hs.1, ?_⟩
      have hread : State.read8 { s with fault := some (.invalidOpcode (s.read8 s.pc) s.pc) } s.pc = s.read8 s.pc := rfl
      simp [State.latchOk, hread, hop]

/-! ### The statements -/

/-- Settles O9: a step writes memory by byte writes and answers no state with a latched fault. -/
theorem stepKeepsTheInvariant : Obligations.StepKeepsTheInvariant := fun _ _ => step_inv

/-- Settles O11: a fault of the host's step was truthful before or names the opcode just read; reset clears it. -/
theorem hostStepAndResetKeepTheInvariant : Obligations.HostStepAndResetKeepTheInvariant :=
  fun s hs => ⟨hostStep_inv hs, fun r => inv_of_not_latched (s := s.resetWith r) hs.1 (resetWith_fault s r)⟩

/-- Settles O10: no cell is listed and no fault latched. -/
theorem resetStateMeetsTheInvariant : Obligations.ResetStateMeetsTheInvariant := inv_of_not_latched rfl rfl

/-- Settles O7: an invalid opcode's body latches the fault, which the step reports; a valid one's latches none. -/
theorem invalidOpcodeFaultsAndIsLatched : Obligations.InvalidOpcodeFaultsAndIsLatched := by
  refine ⟨exec_invalid, fun s hf => ?_⟩
  split
  case isTrue hop =>
    have hstep := step_of_invalid hf hop
    exact ⟨hstep, hostStep_of_fault hstep⟩
  case isFalse hop =>
    obtain ⟨t, hstep, -, hfault⟩ := step_of_valid hf (mt (fetch_kind_eq_invalid_iff s).1 hop)
    exact ⟨t, hstep, hostStep_of_next hstep, hfault⟩

/-- Settles O8: the step reports the latch before anything runs; of the calls only reset writes it otherwise. -/
theorem faultLatchIsStickyUntilReset : Obligations.FaultLatchIsStickyUntilReset := by
  intro s f hf
  refine ⟨step_of_latched hf, hostStep_of_latched hf, hostRun_of_latched hf, fun r => resetWith_fault s r,
    fun c hc => ?_⟩
  cases c with
  | load a bs => exact ⟨_, rfl, hf⟩
  | reset r => exact absurd rfl (hc r)
  | step => exact ⟨_, rfl, by rwa [hostStep_of_latched hf]⟩
  | run n =>
    cases n with
    | zero => exact ⟨_, rfl, hf⟩
    | succ n => exact ⟨_, rfl, by rwa [hostRun_of_latched hf]⟩
  | inspect => exact ⟨_, rfl, hf⟩
  | peek a => exact ⟨_, rfl, hf⟩

/-- Settles O6: the decoder reads the fetched instruction, whose body the step runs. -/
theorem stepRunsTheDecodedInstruction : Obligations.StepRunsTheDecodedInstruction := by
  intro s i rest hf h hk
  obtain ⟨hwf, -⟩ := encodeOfDecodeGivesTheBytesBack _ rest i h
  exact ⟨hwf, step_eq_exec hf (fetch_eq_of_decode h) hk⟩

end Sys2Proof.Machine
end

section
/-! The resolver (40_execution.md R125): the operand of the fetched instruction and the one that `resolve` gives from
the bytes in memory. -/

namespace Sys2Proof.Machine

/-- An operand word stands at pc0 + 1 and pc0 + 2 (R131). -/
theorem read16_operand (s : State) (pc : Addr) : s.read16 (pc + 1) = word (s.read8 (pc + 2)) (s.read8 (pc + 1)) := by
  rw [state_read16, add_assoc]
  rfl

section

variable {pc : Addr} {s : State}

theorem operandByte_of_prefix {b : Byte} (h : [b] <+: [s.read8 (pc + 1), s.read8 (pc + 2)]) : b = s.read8 (pc + 1) :=
  (List.cons_prefix_cons.1 h).1

theorem operandWord_of_prefix {w : Addr} (h : wordBytes w <+: [s.read8 (pc + 1), s.read8 (pc + 2)]) :
    w = s.read16 (pc + 1) :=
  (wordBytes_prefix_iff.1 h).symm.trans (read16_operand s pc).symm

/-- A memory operand whose bytes stand after the opcode is the one that its mode resolves to. -/
theorem tagMem_eq_resolve {m : MemMode} (h : m.bytes <+: [s.read8 (pc + 1), s.read8 (pc + 2)]) :
    tagMem m s = resolve m.mode pc s := by
  cases m
  case zp b | zpx b | zpy b | izx b | izy b =>
    obtain rfl := operandByte_of_prefix h
    rfl
  case abs w | absx w | absy w =>
    obtain rfl := operandWord_of_prefix h
    rfl

theorem tagSrc_eq_resolve {o : Src} (h : o.bytes <+: [s.read8 (pc + 1), s.read8 (pc + 2)]) :
    tagSrc o pc s = resolve o.mode pc s := by
  cases o with
  | imm b => rfl
  | mem m => exact tagMem_eq_resolve h

theorem tagRmw_eq_resolve {o : RmwOpnd} (h : o.bytes <+: [s.read8 (pc + 1), s.read8 (pc + 2)]) :
    tagRmw o s = resolve o.mode pc s := by
  cases o with
  | acc => rfl
  | mem m => exact tagMem_eq_resolve h

theorem taggedOperand_eq_resolve {i : Instr} (h : i.operandBytes <+: [s.read8 (pc + 1), s.read8 (pc + 2)]) :
    taggedOperand i pc s = resolve i.mode pc s := by
  cases i
  case adc | sbc | cmp | cpx | cpy | and | ora | eor | lda | ldx | ldy => exact tagSrc_eq_resolve h
  case bit | inc | dec | sta | stx | sty => exact tagMem_eq_resolve h
  case asl | lsr | rol | ror => exact tagRmw_eq_resolve h
  case bcc d | bcs d | beq d | bne d | bmi d | bpl d | bvc d | bvs d =>
    obtain rfl := operandByte_of_prefix h
    rfl
  case jsr w =>
    obtain rfl := operandWord_of_prefix h
    rfl
  case jmp t => cases t <;> obtain rfl := operandWord_of_prefix h <;> rfl
  all_goals rfl

/-- A read instruction works on its read operand, whose bytes are the instruction's. -/
theorem taggedOperand_of_srcOperand {i : Instr} {o : Src} (h : srcOperand i = some o) (pc : Addr) (s : State) :
    taggedOperand i pc s = tagSrc o pc s ∧ i.operandBytes = o.bytes := by
  cases i <;> cases h <;> exact ⟨rfl, rfl⟩

/-- A read operand loads the byte at its address; that of an Immediate operand is pc0 + 1 (R125, R132). -/
theorem loadSrc_eq_read8 {o : Src} (h : o.bytes <+: [s.read8 (pc + 1), s.read8 (pc + 2)]) :
    ∃ ea, tagSrc o pc s = .addr ea ∧ loadSrc o s = s.read8 ea := by
  cases o with
  | imm b => exact ⟨pc + 1, rfl, operandByte_of_prefix h⟩
  | mem m => exact ⟨effAddr m s, rfl, rfl⟩

end

/-! ### The statement -/

/-- Settles O27: the operand bytes of the fetched instruction are those after its opcode. -/
theorem fetchedOperandIsTheResolvedOne : Obligations.FetchedOperandIsTheResolvedOne := by
  intro s
  obtain ⟨-, hbytes⟩ := decodeBytes_eq_iff.1 (rfl : _ = fetch s)
  have hmode : (fetch s).mode = (descriptor (s.read8 s.pc)).mode := (decodeBytes_kind_mode _ _ _).2
  refine ⟨hmode ▸ taggedOperand_eq_resolve hbytes, fun o ho => ?_⟩
  obtain ⟨htag, hsrc⟩ := taggedOperand_of_srcOperand ho s.pc s
  rw [htag, loadSrc_prologue]
  exact loadSrc_eq_read8 (hsrc ▸ hbytes)

end Sys2Proof.Machine
end

section
/-! The interrupt-disable flag (60_exceptions.md R263): no address, operand or condition reads it; only the pushed
status byte has it. -/

namespace Sys2Proof.Machine

/-! ### The resolver and the shared bodies do not read I -/

@[simp] theorem read8_withI (s : State) (b : Bool) (a : Addr) : (s.withI b).read8 a = s.read8 a := rfl

@[simp] theorem effAddr_withI (m : MemMode) (s : State) (b : Bool) : effAddr m (s.withI b) = effAddr m s := by
  cases m <;> rfl

@[simp] theorem loadSrc_withI (o : Src) (s : State) (b : Bool) : loadSrc o (s.withI b) = loadSrc o s :=
  loadSrc_setFlags o s _

@[simp] theorem loadMem_withI (m : MemMode) (s : State) (b : Bool) : loadMem m (s.withI b) = loadMem m s := by
  rw [loadMem, effAddr_withI, read8_withI, loadMem]

@[simp] theorem loadRmw_withI (o : RmwOpnd) (s : State) (b : Bool) : loadRmw o (s.withI b) = loadRmw o s := by
  cases o with
  | acc => rfl
  | mem m => exact loadMem_withI m s b

@[simp] theorem jumpTarget_withI (t : JumpOpnd) (s : State) (b : Bool) : jumpTarget t (s.withI b) = jumpTarget t s := by
  cases t <;> rfl

theorem storeMem_withI (m : MemMode) (v : Byte) (s : State) (b : Bool) :
    storeMem m v (s.withI b) = (storeMem m v s).withI b := by
  rw [storeMem, effAddr_withI]
  rfl

theorem storeShift_withI (o : RmwOpnd) (r : ShiftResult) (s : State) (b : Bool) :
    storeShift o r (s.withI b) = (storeShift o r s).withI b := by
  cases o with
  | acc => rfl
  | mem m => simp only [storeShift, storeRmw, storeMem_withI]; rfl

theorem branchIf_withI (g e : Bool) (d : Byte) (s : State) (b : Bool) :
    branchIf g e d (s.withI b) = (branchIf g e d s).withI b := by
  unfold branchIf
  split <;> rfl

/-! ### Instructions -/

/-- An instruction that neither writes I nor pushes the status byte carries the replaced I through. -/
theorem exec_withI {i : Instr} {s t : State} (h : exec i s = .next t)
    (hpush : i.kind ∉ ([.php, .brk] : List Kind)) (hwrite : i.kind ∉ ([.plp, .rti, .sei, .cli] : List Kind))
    (b : Bool) :
    exec i (s.withI b) = .next (t.withI b) := by
  cases i <;> obtain rfl := next_inj h
  case php | brk => simp [Instr.kind] at hpush
  case plp | rti | sei | cli => simp [Instr.kind] at hwrite
  case adc | sbc | cmp | cpx | cpy | and | ora | eor | lda | ldx | ldy =>
    simp only [exec_adc, exec_sbc, exec_cmp, exec_cpx, exec_cpy, exec_and, exec_ora, exec_eor, exec_lda, exec_ldx,
      exec_ldy, loadSrc_withI]
    rfl
  case bit => rw [exec_bit, loadMem_withI]; rfl
  case inc => rw [exec_inc, loadMem_withI, storeMem_withI]; rfl
  case dec => rw [exec_dec, loadMem_withI, storeMem_withI]; rfl
  case asl => rw [exec_asl, loadRmw_withI, storeShift_withI]
  case lsr => rw [exec_lsr, loadRmw_withI, storeShift_withI]
  case rol => rw [exec_rol, loadRmw_withI, storeShift_withI]; rfl
  case ror => rw [exec_ror, loadRmw_withI, storeShift_withI]; rfl
  case sta m | stx m | sty m => exact congrArg _ (storeMem_withI m _ s b)
  case bcc d | bcs d | beq d | bne d | bmi d | bpl d | bvc d | bvs d => exact congrArg _ (branchIf_withI _ _ d s b)
  case jmp => rw [exec_jmp, jumpTarget_withI]; rfl
  all_goals rfl

/-- An instruction that writes I writes the same I whatever it held before. -/
theorem exec_withI_of_writer {i : Instr} (hk : i.kind ∈ ([.plp, .rti, .sei, .cli] : List Kind)) (s : State) (b : Bool) :
    exec i (s.withI b) = exec i s := by
  cases i
  case plp | rti | sei | cli => rfl
  all_goals simp [Instr.kind] at hk

/-- Pushes of two status bytes leave memories that differ at most in the cell of the push. -/
theorem read8_push_eq_of_ne {s s' : State} {v v' : Byte} {adr : Addr} (hmem : s'.mem = s.mem) (hsp : s'.sp = s.sp)
    (h : phys adr ≠ phys (stackAddr s.sp)) : (s'.push v').read8 adr = (s.push v).read8 adr := by
  rw [phys_stackAddr] at h
  rw [read8_of_push, read8_of_push, hsp, if_neg h, if_neg h, state_read8, hmem, state_read8]

/-- Trap entry sets I and pushes its old value; the vector that it reads lies outside the stack page (R270). -/
theorem enterTrap_withI (s : State) (b : Bool) (ret : Addr) :
    (s.withI b).enterTrap ret = { s.enterTrap ret with mem := ((s.withI b).enterTrap ret).mem } := by
  have hpc : ((s.withI b).enterTrap ret).pc = (s.enterTrap ret).pc := by
    rw [enterTrap_pc_eq, enterTrap_pc_eq, read8_withI, read8_withI]
  exact congrArg (fun pc => { (s.withI b).enterTrap ret with pc := pc }) hpc

/-! ### The statement -/

/-- Settles O14: for PHP and BRK the pushed status byte is the last write to memory. -/
theorem interruptDisableFlagSteersNothing : Obligations.InterruptDisableFlagSteersNothing := by
  intro i s b
  obtain ⟨t, ht⟩ := exec_answers_next i s
  obtain ⟨t', ht'⟩ := exec_answers_next i (s.withI b)
  refine ⟨t, t', ht, ht', fun hk => ?other, fun hk => ?php, fun hk => ?brk⟩
  case other =>
    split
    case isTrue hw => exact next_inj (ht'.symm.trans ((exec_withI_of_writer hw s b).trans ht))
    case isFalse hw => exact next_inj (ht'.symm.trans (exec_withI ht hk hw b))
  case php =>
    cases i <;> cases hk
    obtain rfl := next_inj ht
    obtain rfl := next_inj ht'
    exact ⟨rfl, fun adr hadr => read8_push_eq_of_ne rfl rfl hadr⟩
  case brk =>
    cases i <;> cases hk
    obtain rfl := next_inj ht
    obtain rfl := next_inj ht'
    refine ⟨enterTrap_withI s b (brkReturnAddr s), fun adr hadr => ?_⟩
    rw [← push16_sp_eq s (brkReturnAddr s)] at hadr
    exact read8_push_eq_of_ne (s := s.push16 (brkReturnAddr s)) (s' := (s.withI b).push16 (brkReturnAddr s))
      rfl rfl hadr

end Sys2Proof.Machine
end

section
/-! Steps at a known opcode: the flag instructions and NOP (49_flag_nop.md), a call and its return and a trap and its
return (48_stack_control.md; 60_exceptions.md R270 to R272), and a store over the storing instruction (20_memory.md
R78). -/

namespace Sys2Proof.Machine

/-! ### The instruction at PC -/

/-- The fetched instruction is the one that the decoder reads under the opcode at PC. -/
theorem fetch_of_opcode {s : State} {op : Byte} {f : Byte → Byte → Instr} (hop : s.read8 s.pc = op)
    (hf : ∀ b1 b2, decodeBytes op b1 b2 = f b1 b2) : fetch s = f (s.read8 (s.pc + 1)) (s.read8 (s.pc + 2)) := by
  rw [fetch, hop, hf]

theorem step_of_nop {s : State} (hf : s.fault = none) (hop : s.read8 s.pc = 0xEA) :
    step s = .next { s with pc := s.pc + 1 } :=
  step_eq_exec hf (fetch_of_opcode (f := fun _ _ => .nop) hop fun _ _ => rfl) nofun

/-- JSR pushes the address of its last byte, which is pc0 + 2 (R234). -/
theorem step_of_jsr {s : State} (hf : s.fault = none) (hop : s.read8 s.pc = 0x20) :
    step s = .next { { s with pc := s.pc + 3 }.push16 (s.pc + 3 - 1) with
      pc := word (s.read8 (s.pc + 2)) (s.read8 (s.pc + 1)) } :=
  step_eq_exec hf (fetch_of_opcode (f := fun b1 b2 => .jsr (word b2 b1)) hop fun _ _ => rfl) nofun

theorem step_of_rts {s : State} (hf : s.fault = none) (hop : s.read8 s.pc = 0x60) :
    step s = .next { s.pull16.2 with pc := s.pull16.1 + 1 } :=
  step_eq_exec hf (fetch_of_opcode (f := fun _ _ => .rts) hop fun _ _ => rfl) nofun

/-- BRK enters the trap with the return address pc0 + `BRK_PUSH_OFFSET` (R237, R238). -/
theorem step_of_brk {s : State} (hf : s.fault = none) (hop : s.read8 s.pc = 0x00) :
    step s = .next ({ s with pc := s.pc + 2 }.enterTrap (s.pc + s.cfg.brkPushOffset.toAddr)) := by
  rw [step_eq_exec hf (fetch_of_opcode (f := fun b1 _ => .brk b1) hop fun _ _ => rfl) nofun, exec_brk,
    brkReturnAddr_of_pc (pc0 := s.pc) rfl]
  rfl

theorem step_of_rti {s : State} (hf : s.fault = none) (hop : s.read8 s.pc = 0x40) :
    step s = .next s.returnFromTrap :=
  step_eq_exec hf (fetch_of_opcode (f := fun _ _ => .rti) hop fun _ _ => rfl) nofun

theorem step_of_sta_abs {s : State} {ea : Addr} (hf : s.fault = none) (hi : fetch s = .sta (.abs ea)) :
    step s = .next ({ s with pc := s.pc + 3 }.write8 ea s.a) :=
  step_eq_exec hf hi nofun

/-! ### A trap and its return -/

/-- The bytes that trap entry pushed stand in three cells (R270). -/
theorem read8_of_enterTrap (s : State) (ret : Addr) :
    (s.enterTrap ret).read8 (stackAddr s.sp) = highByte ret ∧
      (s.enterTrap ret).read8 (stackAddr (s.sp - 1)) = lowByte ret := by
  constructor
  · rw [stored_enterTrap s ret]
    simp [storedOr]
  · rw [stored_enterTrap s ret]
    simp [storedOr]

/-- Trap return takes back what trap entry pushed (R271). -/
theorem enterTrap_returnFromTrap (s : State) (ret : Addr) :
    (s.enterTrap ret).returnFromTrap.pc = ret ∧ (s.enterTrap ret).returnFromTrap.p = s.p ∧
      (s.enterTrap ret).returnFromTrap.sp = s.sp := by
  obtain ⟨hhigh, hlow⟩ := read8_of_enterTrap s ret
  have h1 : s.sp - 3 + 1 = s.sp - 2 := by bv_omega
  have h2 : s.sp - 3 + 2 = s.sp - 1 := by bv_omega
  have h3 : s.sp - 3 + 3 = s.sp := sub_add_cancel s.sp 3
  refine ⟨?pc, ?flags, ?sp⟩
  case pc => rw [returnFromTrap_pc_eq, enterTrap_sp_eq, h2, h3, hhigh, hlow, word_high_low]
  case flags => rw [returnFromTrap_p, pull_fst, enterTrap_sp_eq, h1, enterTrap_read8_status, ofImage_image]
  case sp => rw [returnFromTrap_sp_eq, enterTrap_sp_eq, h3]

/-! ### The statements -/

/-- Settles O52: each is one flag set or cleared. -/
theorem flagInstructionsWriteOneFlag : Obligations.FlagInstructionsWriteOneFlag := by
  refine ⟨?opcodes, fun s => ⟨?sec, ?sei, ?sed, ?clc, ?cli, ?cld, ?clv⟩⟩
  case opcodes =>
    simp only [hasOpcodes_cons]
    exact ⟨fun _ _ => rfl, fun _ _ => rfl, fun _ _ => rfl, fun _ _ => rfl, fun _ _ => rfl, fun _ _ => rfl,
      fun _ _ => rfl, hasOpcodes_nil⟩
  case sec => exact ⟨_, exec_sec s, rfl, frame_setC s true⟩
  case sei => exact ⟨_, exec_sei s, rfl, frame_setI s true⟩
  case sed => exact ⟨_, exec_sed s, rfl, frame_setD s true⟩
  case clc => exact ⟨_, exec_clc s, rfl, frame_setC s false⟩
  case cli => exact ⟨_, exec_cli s, rfl, frame_setI s false⟩
  case cld => exact ⟨_, exec_cld s, rfl, frame_setD s false⟩
  case clv => exact ⟨_, exec_clv s, rfl, frame_setV s false⟩

/-- Settles O53: NOP has one opcode in R97's list, and its body changes nothing. -/
theorem nopOnlyAdvancesPc : Obligations.NopOnlyAdvancesPc := by
  refine ⟨fun op b1 b2 => ?opcode, exec_nop, fun s hf hop => step_of_nop hf hop⟩
  case opcode =>
    have hnop : Instr.nop.opcode = some 0xEA := rfl
    rw [decodeBytes_eq_iff, hnop, Option.some_inj, eq_comm]
    exact and_iff_left List.nil_prefix

/-- Settles O50: RTS pulls the word that JSR pushed, pc0 + 2, and adds one. -/
theorem jsrThenRtsResumesAfterTheCall : Obligations.JsrThenRtsResumesAfterTheCall := by
  intro s hf hop
  refine ⟨_, step_of_jsr hf hop, rfl, fun hrts => ⟨_, step_of_rts hf hrts, ?pc, ?sp, rfl, rfl, rfl, rfl⟩⟩
  case pc =>
    have hret := push16_pull16_fst { s with pc := s.pc + 3 } (s.pc + 3 - 1)
    exact (congrArg (· + 1) hret).trans (sub_add_cancel (s.pc + 3) 1)
  case sp => exact push16_pull16_sp { s with pc := s.pc + 3 } (s.pc + 3 - 1)

/-- Settles O51: RTI is trap return, which takes back what the trap entry of BRK pushed. -/
theorem brkThenRtiRestoresFlagsAndStack : Obligations.BrkThenRtiRestoresFlagsAndStack := by
  intro s hf hop
  obtain ⟨hpc, hp, hsp⟩ := enterTrap_returnFromTrap { s with pc := s.pc + 2 } (s.pc + s.cfg.brkPushOffset.toAddr)
  refine ⟨_, step_of_brk hf hop, enterTrap_pc_eq _ _, rfl, fun hrti => ?_⟩
  exact ⟨_, step_of_rti hf hrti, hpc, hsp, hp, rfl, rfl, rfl⟩

/-- Settles O60: the store is a byte write, and the next fetch reads its byte from the cell. -/
theorem storeOverOwnBytesTakesEffectAtNextFetch : Obligations.StoreOverOwnBytesTakesEffectAtNextFetch := by
  intro s ea hf h
  have hstored : Stored [(ea, s.a)] s ({ s with pc := s.pc + 3 }.write8 ea s.a) := stored_write8 _ ea s.a
  refine ⟨_, step_of_sta_abs hf (fetch_eq_of_decode h), rfl, hstored, fun u hmem hcell => ?_⟩
  have hop : u.read8 u.pc = s.a := by
    rw [state_read8, hmem, ← state_read8, hstored, storedOr, if_pos hcell]
  rw [fetch, hop]

end Sys2Proof.Machine
end

section
/-! Reset (70_reset_and_hazards.md) and the host's loop of steps (10_state.md R49). -/

namespace Sys2Proof.Machine

/-! ### The loop of steps, by what its first step answers -/

theorem coreRun_succ_of_next {M : Host.Core} {s t : M.State} (h : M.step s = .next t) (n : Nat) :
    M.run (n + 1) s = M.run n t := by
  rw [Host.Core.run, h]

theorem coreRun_succ_of_fault {M : Host.Core} {s : M.State} {f : M.Fault} (h : M.step s = .fault f) (n : Nat) :
    M.run (n + 1) s = .fault f := by
  rw [Host.Core.run, h]

theorem hostRun_succ_of_next {s t : State} (h : step s = .next t) (n : Nat) : hostRun (n + 1) s = hostRun n t := by
  rw [hostRun, hostStep_of_next h]

theorem hostRun_succ_of_fault {s : State} {f : Fault} (h : step s = .fault f) (n : Nat) :
    hostRun (n + 1) s = ({ s with fault := some f }, .fault f) := by
  rw [hostRun, hostStep_of_fault h]

/-! ### The statements -/

/-- Settles O59, by induction on the number of steps and cases on the first. -/
theorem runStopsAtTheFirstFault : Obligations.RunStopsAtTheFirstFault := by
  intro n
  induction n with
  | zero =>
    refine fun s => ⟨fun t => ?_, fun t f h => ?_, fun t r h => ?_⟩
    · exact ⟨fun h => congrArg _ (Prod.mk.inj h).1, fun h => congrArg (·, StepResult.ok) (next_inj h)⟩
    · cases h
    · cases h
  | succ n ih =>
    intro s
    cases hstep : step s with
    | next v =>
      simp only [hostRun_succ_of_next hstep, coreRun_succ_of_next (M := core) hstep]
      obtain ⟨hok, hfault, hrefused⟩ := ih v
      refine ⟨hok, fun t f h => ?_, hrefused⟩
      obtain ⟨hrun, k, u, hk, hu, hlast⟩ := hfault t f h
      exact ⟨hrun, k + 1, u, Nat.succ_lt_succ hk, (hostRun_succ_of_next hstep k).trans hu, hlast⟩
    | fault g =>
      simp only [hostRun_succ_of_fault hstep, coreRun_succ_of_fault (M := core) hstep]
      refine ⟨fun t => by simp, fun t f h => ?_, fun t r => by simp⟩
      cases h
      exact ⟨rfl, 0, s, n.succ_pos, rfl, hstep, rfl⟩
    | refused r => exact absurd hstep (step_ne_refused s r)

/-- Settles O54: the word at the vector is read low byte first; the rest is the definition. -/
theorem resetLoadsPcAndSetsI : Obligations.ResetLoadsPcAndSetsI :=
  fun s _ => ⟨state_read16 s resetVector, rfl, rfl, rfl, rfl, rfl, rfl, rfl, rfl, rfl, rfl, rfl, rfl, rfl⟩

/-- Settles O55: reset keeps memory and parameters and takes every other field from the draws and the vector. -/
theorem resetStateComesFromTheResetOperation : Obligations.ResetStateComesFromTheResetOperation := by
  refine ⟨fun s hmem hcfg => ?_, rfl, rfl, rfl⟩
  rw [State.resetWith, State.read16, hmem, hcfg]
  rfl

/-- Settles O58: the calls are defined so, and the first reset is the reset operation on the loaded memory. -/
theorem noStepBeforeTheFirstReset : Obligations.NoStepBeforeTheFirstReset := by
  refine fun m cfg => ⟨rfl, fun _ => rfl, rfl, fun _ => rfl,
    fun r => ⟨firstReset m cfg r, rfl, ?pc, rfl, rfl, rfl, rfl⟩⟩
  case pc => exact state_read16 { State.reset with mem := m, cfg := cfg } resetVector

end Sys2Proof.Machine
end
